-- ==== Sys2Proof/Word.lean ====
section
/-! DEFINITION. The word types of the machine. -/

namespace Sys2Proof

/-- A memory cell, a general register or a timer: 8 bits, unsigned (00_scope.md R8, R9). -/
abbrev Byte := BitVec 8

/-- An instruction word, I, PC or a return address: 16 bits, unsigned (00_scope.md R9). -/
abbrev Word := BitVec 16

/-- The number of a general register V0 to VF; a 4-bit field always names one (10_state.md R27). -/
abbrev RegIdx := Fin 16

end Sys2Proof
end

