-- ==== Sys2Proof/Config.lean ====
section
/-! DEFINITION. The parameters the spec leaves open (00_scope.md R7) and the free values of a step
(93_implementation_defined.md, treatment "any value"). -/

namespace Sys2Proof

/-- ALU_VARIANT, the source's open question on SHR's flag and SUBN's value (00_scope.md R7; 41_alu.md R131, R132). -/
inductive AluVariant where
  | literal
  | historical
deriving DecidableEq, Repr, Inhabited

/-- VF_CORNER, the meaning of a flag-writing instruction that names VF as an operand
(00_scope.md R7; 41_alu.md R121, R122; 43_display.md R173). -/
inductive VfCorner where
  | latched
  | havoc
deriving DecidableEq, Repr, Inhabited

/-- FONT: 80 bytes, 16 glyphs of 5 bytes (10_state.md R41). -/
abbrev Font := Vector Byte 80

/-- The framebuffer's storage: 64 rows of 64 one-bit cells (10_state.md R38, R39).
Bit `k` of row `r` is the cell at column `k`, that is cell `64 r + k`. -/
abbrev FrameBuf := Vector (BitVec 64) 64

/-- The OPEN parameters of 00_scope.md R7. They are fixed for a machine: no step and no LOAD changes them. -/
structure Config where
  /-- ALU_VARIANT. -/
  aluVariant : AluVariant
  /-- VF_CORNER. -/
  vfCorner : VfCorner
  /-- FONT. -/
  font : Font
deriving DecidableEq, Repr, Inhabited

/-- What one step reads and the spec does not determine. -/
structure Draws where
  /-- The key sample K of the step: bit `k` is 1 when logical key `k` is down (10_state.md R22). -/
  keyDown : BitVec 16
  /-- The random byte of the step (10_state.md R23). -/
  randByte : Byte
  /-- Which of several down keys FX0A stores: an index into the keys down, taken modulo their number
  (44_timers_keys.md R193). -/
  keyPick : Nat
  /-- The unconstrained byte for V[X] under `havoc` (41_alu.md R122). -/
  havocReg : Byte
  /-- The unconstrained byte for VF under `havoc` (41_alu.md R122). -/
  havocFlag : Byte
  /-- The unconstrained active cells after a DXYN under `havoc` (43_display.md R173). -/
  havocCells : FrameBuf
  /-- The unconstrained collision bit after a DXYN under `havoc` (43_display.md R173). -/
  havocHit : Bool
deriving DecidableEq, Repr, Inhabited

/-- The draws of the step that follows the `k`-th completed step or LOAD: uninterpreted, so that whatever is proved
holds for every key sample, every random byte and every other free value (10_state.md R22, R23; log entry 6). -/
opaque Config.freeDraws : Nat → Draws

end Sys2Proof
end

