-- ==== Sys2Proof/Machine/Params.lean ====
section
/-! DEFINITION. The fixed and decided parameters of 00_scope.md R7, and the default values of the open ones. -/

namespace Sys2Proof.Machine

/-- STACK_DEPTH: 16 entries (00_scope.md R7; 10_state.md R32). -/
abbrev stackDepth : Nat := 16

/-- MAX_IMAGE: 3584 bytes, 0x1000 − 0x200 (00_scope.md R7; 70_reset_and_hazards.md R242). -/
abbrev maxImage : Nat := 3584

/-- RENDER_CHANNELS: 3 bytes per rendered pixel (00_scope.md R7; 43_display.md R174). -/
abbrev renderChannels : Nat := 3

/-- HIRES_SENTINEL: the word 0x1260 at PC = 0x200 (00_scope.md R7; 10_state.md R53). -/
abbrev hiresSentinel : Word := 0x1260

/-- HIRES_SUBSTITUTE: the word executed instead (00_scope.md R7; 10_state.md R53). -/
abbrev hiresSubstitute : Word := 0x12C0

/-- The default FONT of 10_state.md R41. PRESUMED by the spec itself (general knowledge, not in its source): log entry 5. -/
def defaultFont : Font :=
  ⟨#[0xF0, 0x90, 0x90, 0x90, 0xF0, 0x20, 0x60, 0x20, 0x20, 0x70,
     0xF0, 0x10, 0xF0, 0x80, 0xF0, 0xF0, 0x10, 0xF0, 0x10, 0xF0,
     0x90, 0x90, 0xF0, 0x10, 0x10, 0xF0, 0x80, 0xF0, 0x10, 0xF0,
     0xF0, 0x80, 0xF0, 0x90, 0xF0, 0xF0, 0x10, 0x20, 0x40, 0x40,
     0xF0, 0x90, 0xF0, 0x90, 0xF0, 0xF0, 0x90, 0xF0, 0x10, 0xF0,
     0xF0, 0x90, 0xF0, 0x90, 0x90, 0xE0, 0x90, 0xE0, 0x90, 0xE0,
     0xF0, 0x80, 0x80, 0x80, 0xF0, 0xE0, 0x90, 0x90, 0x90, 0xE0,
     0xF0, 0x80, 0xF0, 0x80, 0xF0, 0xF0, 0x80, 0xF0, 0x80, 0x80], rfl⟩

/-- The default settings of the open parameters: ALU_VARIANT = literal, VF_CORNER = latched, the default FONT
(00_scope.md R7). -/
def defaultConfig : Config := { aluVariant := .literal, vfCorner := .latched, font := defaultFont }

/-- The inputs and free values held at reset, before the first step draws its own.
DESIGN CHOICE (log entry 6): no statement rests on them. -/
def resetDraws : Draws :=
  { keyDown := 0, randByte := 0, keyPick := 0, havocReg := 0, havocFlag := 0,
    havocCells := Vector.replicate 64 0, havocHit := false }

end Sys2Proof.Machine
end

