-- ==== Sys2Proof/Machine/State.lean ====
section
/-! DEFINITION. The state of the machine (10_state.md), its reasons to stop, and its state at reset. -/

namespace Sys2Proof.Machine

/-- The halt reasons 1 to 6 of 60_exceptions.md R210. -/
inductive HaltReason where
  | endOfProgram
  | unknownInstruction
  | stackUnderflow
  | stackOverflow
  | memoryBounds
  | keyIndexRange
deriving DecidableEq, Repr

/-- The run state (10_state.md R45). `info` is the 16-bit value recorded with the halt (60_exceptions.md R210). -/
inductive RunState where
  | notLoaded
  | running
  | halted (reason : HaltReason) (info : Word)
deriving DecidableEq, Repr

/-- The register file V0 to VF (10_state.md R25). -/
abbrev Regs := Vector Byte 16

/-- Memory (20_memory.md R60): the bytes that differ from the content LOAD leaves (FONT and zeros), in one canonical form,
addresses strictly rising. -/
abbrev Memory := List Host.Cell

/-- Everything the spec gives the machine (10_state.md), with the ports a step samples and drives, and the open parameters. -/
structure State where
  /-- V0 to VF (R25). -/
  v : Regs
  /-- I (R28). -/
  i : Word
  /-- PC (R29). -/
  pc : Word
  /-- The return addresses, oldest first (R32, R33); SP is their number. -/
  stack : List Word
  /-- DT (R37). -/
  dt : Byte
  /-- ST (R37). -/
  st : Byte
  /-- FB (R38). -/
  fb : FrameBuf
  /-- The mode flag (R42). -/
  hires : Bool
  /-- M (R40). -/
  mem : Memory
  /-- prog_len (R43). -/
  progLen : Nat
  /-- game_loaded (R44). -/
  gameLoaded : Bool
  /-- run_state (R45). -/
  runState : RunState
  /-- The output `beep` of the last step (R20; 60_exceptions.md R220). -/
  beep : Bool
  /-- The output `draw_request` of the last step (R20; 43_display.md R175). -/
  drawRequest : Bool
  /-- The inputs and free values of the next step (R22, R23; log entry 6). -/
  draws : Draws
  /-- The model's own counter of the draws made so far (log entry 6). -/
  drawCount : Nat
  /-- The open parameters (00_scope.md R7; log entry 4); never written. -/
  cfg : Config
deriving DecidableEq, Repr

/-- Why a step stops with a fault. All are safe: the spec itself ends the run there. -/
inductive Fault where
  /-- RET with an empty stack, a fatal halt (40_flow.md R100; 60_exceptions.md R210, R211). Safe. -/
  | stackUnderflow
  /-- CALL with 16 entries on the stack, a fatal halt; the address that would have been pushed (40_flow.md R102). Safe. -/
  | stackOverflow (addr : Word)
  /-- The fetch, DRW, LD_B, LD_MEM_VX or LD_VX_MEM at an address ≥ 0x1000, a fatal halt; the lowest such address
  (20_memory.md R63, R64). Safe. -/
  | memoryBounds (addr : Word)
  /-- SKP or SKNP with VX > 15, a fatal halt; VX (44_timers_keys.md R190, R191). Safe. -/
  | keyIndexRange (index : Word)
  /-- STEP before a successful LOAD: the spec gives no step (10_state.md R50; log entry 11). Raised by `step`. Safe: a stuck
  state. -/
  | stepNotLoaded
  /-- STEP after a halt: the spec gives no step (10_state.md R50; 60_exceptions.md R217; log entry 11). Raised by `step`. Safe:
  a stuck state. -/
  | stepAfterHalt
deriving DecidableEq, Repr

/-- Why a step is refused. -/
inductive Refusal where
  /-- No meaning written for the instruction; raised by no arm of `exec`. Safe. -/
  | notModelled (mnemonic : String)
  /-- A dispatch-ambiguous word, which the spec tells a model to refuse (30_encoding.md R89; log entry 12). Raised by `step`.
  Safe. -/
  | dispatchAmbiguous (word : Word)
deriving DecidableEq, Repr

/-- The outcome of a meaning or a step. -/
abbrev Result := Host.Outcome State Fault Refusal

/-- The machine reset with no program: the state every LOAD without a usable image leaves (70_reset_and_hazards.md R241, R243;
10_state.md R48), with the default parameters. A program comes from LOAD (log entries 2 and 3).
Nothing is listed in memory, so it reads as FONT at 0x000 to 0x04F and 0 elsewhere. -/
def State.reset : State :=
  { v := Vector.replicate 16 0, i := 0, pc := 0x200, stack := [], dt := 0, st := 0, fb := Vector.replicate 64 0,
    hires := false, mem := [], progLen := 0, gameLoaded := false, runState := .notLoaded, beep := false,
    drawRequest := false, draws := resetDraws, drawCount := 0, cfg := defaultConfig }

end Sys2Proof.Machine
end

