-- ==== Sys2Proof/Machine/Ops.lean ====
section
/-! DEFINITION. The named operations over memory, registers, the stack and the framebuffer, and the halt. -/

namespace Sys2Proof.Machine

/-! ## Memory -/

/-- What an address that memory does not list reads as: the content LOAD leaves below the image, FONT at 0x000 to 0x04F
and 0 elsewhere (10_state.md R48; 70_reset_and_hazards.md R241; log entry 13). -/
def unlisted (f : Font) (a : Nat) : Byte := f[a]?.getD 0

/-- The listed byte at an address. -/
def Memory.lookup : Memory → Nat → Option Byte
  | [], _ => none
  | (b, w) :: m, a => if a = b then some w else Memory.lookup m a

/-- The byte at an address. -/
def Memory.read (f : Font) (m : Memory) (a : Nat) : Byte := (Memory.lookup m a).getD (unlisted f a)

/-- List a byte at an address, keeping the addresses strictly rising. -/
def Memory.put : Memory → Nat → Byte → Memory
  | [], a, v => [(a, v)]
  | (b, w) :: m, a, v =>
    if a < b then (a, v) :: (b, w) :: m
    else if a = b then (a, v) :: m
    else (b, w) :: Memory.put m a v

/-- Remove an address from the list. -/
def Memory.drop (m : Memory) (a : Nat) : Memory := m.filter (fun p => p.1 != a)

/-- Write one byte, keeping the canonical form: a byte equal to what an unlisted address reads as is not listed. -/
def Memory.write (f : Font) (m : Memory) (a : Nat) (v : Byte) : Memory :=
  if v = unlisted f a then Memory.drop m a else Memory.put m a v

/-- The canonical form: addresses strictly rising and inside 0x000 to 0xFFF (20_memory.md R60), no entry equal to what an
unlisted address reads as. -/
abbrev Memory.wf (f : Font) (m : Memory) : Prop :=
  m.Pairwise (fun p q => p.1 < q.1) ∧ ∀ p ∈ m, p.1 < 0x1000 ∧ p.2 ≠ unlisted f p.1

/-- The byte of `M` at an address, with no bounds check. -/
def State.peek (s : State) (a : Nat) : Byte := Memory.read s.cfg.font s.mem a

/-- Write a byte of `M`, with no bounds check. -/
def State.poke (s : State) (a : Nat) (b : Byte) : State := { s with mem := Memory.write s.cfg.font s.mem a b }

/-- `MemRead(a, 1)` (20_memory.md R63): the byte, or the address to record with Halt(MemoryBounds). -/
def State.memRead (s : State) (a : Nat) : Except Word Byte :=
  if a < 0x1000 then .ok (s.peek a) else .error (BitVec.ofNat 16 a)

/-- The `n` bytes from `base` up. -/
def State.peeks (s : State) (base : Nat) : Nat → List Byte
  | 0 => []
  | n + 1 => s.peek base :: s.peeks (base + 1) n

/-- Write bytes from `base` up, in rising order. -/
def State.pokes (s : State) (base : Nat) : List Byte → State
  | [] => s
  | b :: bs => (s.poke base b).pokes (base + 1) bs

/-- The address recorded when an access to the `n` bytes from `base` up leaves 0x000 to 0xFFF: the lowest accessed address
≥ 0x1000, that is `max(I, 0x1000)` (42_index_memory.md, preamble; 20_memory.md R63). -/
def rangeFault (base : Word) (n : Nat) : Option Word :=
  if 0 < n ∧ 0x1000 < base.toNat + n then some (BitVec.ofNat 16 (max base.toNat 0x1000)) else none

/-- Read the `n` bytes from `base` up, every address checked first (42_index_memory.md, preamble). -/
def State.loadRange (s : State) (base : Word) (n : Nat) : Except Word (List Byte) :=
  match rangeFault base n with
  | some a => .error a
  | none => .ok (s.peeks base.toNat n)

/-- Write bytes from `base` up, every address checked before anything is written (42_index_memory.md, preamble; 20_memory.md R64). -/
def State.storeRange (s : State) (base : Word) (bs : List Byte) : Except Word State :=
  match rangeFault base bs.length with
  | some a => .error a
  | none => .ok (s.pokes base.toNat bs)

/-! ## Registers -/

/-- Read `V[x]` (00_scope.md R11). -/
def State.reg (s : State) (x : RegIdx) : Byte := s.v[x]

/-- Write `V[x]` (00_scope.md R11). -/
def State.setReg (s : State) (x : RegIdx) (b : Byte) : State := { s with v := s.v.set x b }

/-- Write `V[k]`, `V[k+1]`, … (42_index_memory.md R155). -/
def setRegsFrom (v : Regs) (k : Nat) : List Byte → Regs
  | [] => v
  | b :: bs => setRegsFrom (v.setIfInBounds k b) (k + 1) bs

/-- The registers `V[0]` to `V[x]` (42_index_memory.md R154). -/
def State.regsUpTo (s : State) (x : RegIdx) : List Byte := s.v.toList.take (x.val + 1)

/-! ## Stack -/

/-- The number of entries (10_state.md R33). -/
def State.sp (s : State) : Nat := s.stack.length

/-- `push(a)` (10_state.md R35): `none` when the stack is full. -/
def State.push (s : State) (a : Word) : Option State :=
  if s.sp < stackDepth then some { s with stack := s.stack ++ [a] } else none

/-- `pop()` (10_state.md R36): the top entry and the state without it, `none` when the stack is empty. -/
def State.pop (s : State) : Option (Word × State) :=
  match s.stack.getLast? with
  | some a => some (a, { s with stack := s.stack.dropLast })
  | none => none

/-! ## Framebuffer -/

/-- Row `r` of the framebuffer (10_state.md R39). -/
def FrameBuf.row (f : FrameBuf) (r : Nat) : BitVec 64 := f[r]?.getD 0

/-- `FB[c]`: column `c mod 64` of row `floor(c / 64)` (10_state.md R39). -/
def FrameBuf.cell (f : FrameBuf) (c : Nat) : Bool := (FrameBuf.row f (c / 64)).getLsbD (c % 64)

/-- `FB[c] <- FB[c] ^ 1` (43_display.md R172). -/
def FrameBuf.toggle (f : FrameBuf) (c : Nat) : FrameBuf :=
  f.setIfInBounds (c / 64) (FrameBuf.row f (c / 64) ^^^ BitVec.twoPow 64 (c % 64))

/-- Every cell 0. -/
def FrameBuf.blank : FrameBuf := Vector.replicate 64 0

/-- `cells(hires)`, the number of active cells (10_state.md R38). -/
def State.cells (s : State) : Nat := if s.hires then 4096 else 2048

/-! ## Halts -/

/-- Halt entry (60_exceptions.md R215): the state before the step, with run_state = Halted(reason, info) and both pulses 0
(10_state.md R21). -/
def State.haltEntry (s : State) (reason : HaltReason) (info : Word) : State :=
  { s with runState := .halted reason info, beep := false, drawRequest := false }

/-- `raise Halt(reason, info)` from the state before the step: a clean halt is a final state, a fatal halt a fault
(60_exceptions.md R211, R215; log entry 1). -/
def raiseHalt (s : State) (reason : HaltReason) (info : Word) : Result :=
  match reason with
  | .endOfProgram => .next (s.haltEntry .endOfProgram info)
  | .unknownInstruction => .next (s.haltEntry .unknownInstruction info)
  | .stackUnderflow => .fault .stackUnderflow
  | .stackOverflow => .fault (.stackOverflow info)
  | .memoryBounds => .fault (.memoryBounds info)
  | .keyIndexRange => .fault (.keyIndexRange info)

/-- The fatal halt a fault stands for, with its recorded halt_info; `none` for the two stuck states (60_exceptions.md R210). -/
def Fault.halt? : Fault → Option (HaltReason × Word)
  | .stackUnderflow => some (.stackUnderflow, 0)
  | .stackOverflow a => some (.stackOverflow, a)
  | .memoryBounds a => some (.memoryBounds, a)
  | .keyIndexRange k => some (.keyIndexRange, k)
  | .stepNotLoaded => none
  | .stepAfterHalt => none

end Sys2Proof.Machine
end

