-- ==== Sys2Proof/Machine/Operands.lean ====
section
/-! DEFINITION. Operand forms: jump targets, skips, keys, BCD digits, sprite cells. -/

namespace Sys2Proof.Machine

/-- Zero-extend a byte to 16 bits (00_scope.md R10). -/
def zext (b : Byte) : Word := BitVec.ofNat 16 b.toNat

/-- Write PC so that the uniform advance lands on `target`: `PC <- (target − 2) mod 2^16` (10_state.md R31, R56). -/
def State.jumpTo (s : State) (target : Word) : State := { s with pc := target - 2 }

/-- Add 2 to PC when the condition holds, so that the uniform advance skips one instruction (10_state.md R56). -/
def State.skipIf (s : State) (c : Bool) : State := if c then { s with pc := s.pc + 2 } else s

/-- The keys that are down in the sample, in rising order (10_state.md R22). -/
def keysDown (k : BitVec 16) : List RegIdx := (List.finRange 16).filter (fun j => k.getLsbD j)

/-- Some key that is down, chosen by a free value; `none` when no key is down (44_timers_keys.md R193; log entry 7). -/
def pickKey (k : BitVec 16) (pick : Nat) : Option RegIdx := (keysDown k)[pick % (keysDown k).length]?

/-- The decimal digits of a byte: hundreds, tens, ones (42_index_memory.md R153; the order is PRESUMED by the spec, log entry 14). -/
def bcdDigits (b : Byte) : List Byte :=
  [BitVec.ofNat 8 (b.toNat / 100), BitVec.ofNat 8 (b.toNat / 10 % 10), BitVec.ofNat 8 (b.toNat % 10)]

/-- The cells toggled by one sprite row `b` drawn at `(x, y)` with `cells` active cells, bit 7 leftmost (43_display.md R172). -/
def rowCells (cells x y : Nat) (b : Byte) : List Nat :=
  ((List.range 8).filter (fun col => b.getLsbD (7 - col))).map (fun col => ((x + col) + y * 64) % cells)

/-- The cells toggled by a sprite, in the order of the draw's loops (43_display.md R172). -/
def spriteCells (cells x y : Nat) : List Byte → List Nat
  | [] => []
  | b :: rows => rowCells cells x y b ++ spriteCells cells x (y + 1) rows

end Sys2Proof.Machine
end

