-- ==== Sys2Proof/Machine/Flags.lean ====
section
/-! DEFINITION. The flag VF: its computations, and the write of a result with its flag (41_alu.md R120 to R122). -/

namespace Sys2Proof.Machine

/-- A flag value 0 or 1 as a byte. -/
def flagByte (b : Bool) : Byte := if b then 1 else 0

/-- The carry of an addition: 1 exactly when the unbounded sum exceeds 255 (41_alu.md R120, R129). -/
def carryOut (a b : Byte) : Byte := flagByte (decide (255 < a.toNat + b.toNat))

/-- NOT borrow of `a − b`: 0 exactly when `b > a` (41_alu.md R120, R130). -/
def notBorrow (a b : Byte) : Byte := flagByte (decide (b.toNat ≤ a.toNat))

/-- SHR's flag: the low nibble (literal) or the low bit (historical) of the old VX (41_alu.md R131). -/
def shrFlag (variant : AluVariant) (vx : Byte) : Byte :=
  match variant with
  | .literal => vx &&& 0x0F
  | .historical => vx &&& 0x01

/-- SUBN's value: `VX − VY` (literal) or `VY − VX` (historical) (41_alu.md R132). -/
def subnValue (variant : AluVariant) (vx vy : Byte) : Byte :=
  match variant with
  | .literal => vx - vy
  | .historical => vy - vx

/-- SHL's flag: `(VX >> 7) & 0x0F` (41_alu.md R133). -/
def shlFlag (vx : Byte) : Byte := vx >>> 7 &&& 0x0F

/-- The instruction names VF as an operand and VF_CORNER is `havoc` (41_alu.md R122; 43_display.md R173; log entry 8). -/
def State.vfHavoc (s : State) (x y : RegIdx) : Bool := decide (s.cfg.vfCorner = .havoc ∧ (x = 15 ∨ y = 15))

/-- Write a result to V[X] and then its flag to VF (41_alu.md R121); under `havoc` with VF as an operand, unconstrained
bytes instead (R122). -/
def State.writeFlagged (s : State) (x y : RegIdx) (r f : Byte) : State :=
  if s.vfHavoc x y then (s.setReg x s.draws.havocReg).setReg 15 s.draws.havocFlag
  else (s.setReg x r).setReg 15 f

/-- Toggle cells in order; the bit says whether some toggled cell was 1, a collision (43_display.md R172). -/
def drawCells (cs : List Nat) (p : FrameBuf × Bool) : FrameBuf × Bool :=
  cs.foldl (fun q c => (FrameBuf.toggle q.1 c, q.2 || FrameBuf.cell q.1 c)) p

/-- The framebuffer whose first `rows` rows are unconstrained and whose others are as before (43_display.md R173). -/
def havocRows (rows : Nat) (free old : FrameBuf) : FrameBuf :=
  Vector.ofFn (fun r : Fin 64 => if r.val < rows then free[r] else old[r])

end Sys2Proof.Machine
end

