-- ==== Sys2Proof/Machine/Alu.lean ====
section
/-! DEFINITION. Register loads and arithmetic (41_alu.md): the Execute part of each instruction. -/

namespace Sys2Proof.Machine

/-- LD VX, NN (41_alu.md R123). -/
def execLdImm (x : RegIdx) (nn : Byte) (s : State) : Result := .next (s.setReg x nn)

/-- ADD VX, NN: no flag (41_alu.md R124). -/
def execAddImm (x : RegIdx) (nn : Byte) (s : State) : Result := .next (s.setReg x (s.reg x + nn))

/-- LD VX, VY (41_alu.md R125). -/
def execLdReg (x y : RegIdx) (s : State) : Result := .next (s.setReg x (s.reg y))

/-- OR VX, VY (41_alu.md R126). -/
def execOrReg (x y : RegIdx) (s : State) : Result := .next (s.setReg x (s.reg x ||| s.reg y))

/-- AND VX, VY (41_alu.md R127). -/
def execAndReg (x y : RegIdx) (s : State) : Result := .next (s.setReg x (s.reg x &&& s.reg y))

/-- XOR VX, VY (41_alu.md R128). -/
def execXorReg (x y : RegIdx) (s : State) : Result := .next (s.setReg x (s.reg x ^^^ s.reg y))

/-- ADD VX, VY with the carry in VF (41_alu.md R129). -/
def execAddReg (x y : RegIdx) (s : State) : Result :=
  .next (s.writeFlagged x y (s.reg x + s.reg y) (carryOut (s.reg x) (s.reg y)))

/-- SUB VX, VY with NOT borrow in VF (41_alu.md R130). -/
def execSub (x y : RegIdx) (s : State) : Result :=
  .next (s.writeFlagged x y (s.reg x - s.reg y) (notBorrow (s.reg x) (s.reg y)))

/-- SHR VX (41_alu.md R131). -/
def execShr (x y : RegIdx) (s : State) : Result :=
  .next (s.writeFlagged x y (s.reg x >>> 1) (shrFlag s.cfg.aluVariant (s.reg x)))

/-- SUBN VX, VY: the flag is NOT borrow of `VY − VX` (41_alu.md R132). -/
def execSubn (x y : RegIdx) (s : State) : Result :=
  .next (s.writeFlagged x y (subnValue s.cfg.aluVariant (s.reg x) (s.reg y)) (notBorrow (s.reg y) (s.reg x)))

/-- SHL VX (41_alu.md R133). -/
def execShl (x y : RegIdx) (s : State) : Result :=
  .next (s.writeFlagged x y (s.reg x <<< 1) (shlFlag (s.reg x)))

/-- RND VX, NN (41_alu.md R134). -/
def execRnd (x : RegIdx) (nn : Byte) (s : State) : Result := .next (s.setReg x (s.draws.randByte &&& nn))

end Sys2Proof.Machine
end

