-- ==== Sys2Proof/Machine/Display.lean ====
section
/-! DEFINITION. The framebuffer instructions (43_display.md): the Execute part of CLS and DRW. -/

namespace Sys2Proof.Machine

/-- CLS: all 4096 cells (43_display.md R171). -/
def execCls (s : State) : Result := .next { s with fb := FrameBuf.blank, drawRequest := true }

/-- What a DRW leaves (43_display.md R172, R173): the new framebuffer, VF = 1 exactly when `hit`, draw_request = 1. -/
def State.drawn (s : State) (fb : FrameBuf) (hit : Bool) : State :=
  { s.setReg 15 (flagByte hit) with fb := fb, drawRequest := true }

/-- The sprite `rows` drawn at the coordinates in V[X] and V[Y], read once before VF is written (43_display.md R172). -/
def State.drawSprite (s : State) (x y : RegIdx) (rows : List Byte) : FrameBuf × Bool :=
  drawCells (spriteCells s.cells (s.reg x).toNat (s.reg y).toNat rows) (s.fb, false)

/-- DRW VX, VY, N (43_display.md R172); under `havoc` with VF as a coordinate the active cells and the collision bit are
unconstrained, the memory access and its halt the same (R173). -/
def execDrw (x y : RegIdx) (n : Nat) (s : State) : Result :=
  match s.loadRange s.i n with
  | .error a => raiseHalt s .memoryBounds a
  | .ok rows =>
    if s.vfHavoc x y then .next (s.drawn (havocRows (s.cells / 64) s.draws.havocCells s.fb) s.draws.havocHit)
    else .next (s.drawn (s.drawSprite x y rows).1 (s.drawSprite x y rows).2)

end Sys2Proof.Machine
end

