-- ==== Sys2Proof/Machine/Flow.lean ====
section
/-! DEFINITION. Control flow (40_flow.md): the Execute part of each instruction, before the uniform advance. -/

namespace Sys2Proof.Machine

/-- RET (40_flow.md R100). -/
def execRet (s : State) : Result :=
  match s.pop with
  | some (a, t) => .next { t with pc := a }
  | none => raiseHalt s .stackUnderflow 0

/-- JP NNN (40_flow.md R101). -/
def execJp (nnn : Word) (s : State) : Result := .next (s.jumpTo nnn)

/-- CALL NNN: pushes the CALL's own address (40_flow.md R102). -/
def execCall (nnn : Word) (s : State) : Result :=
  match s.push s.pc with
  | some t => .next (t.jumpTo nnn)
  | none => raiseHalt s .stackOverflow s.pc

/-- SE VX, NN (40_flow.md R103). -/
def execSeImm (x : RegIdx) (nn : Byte) (s : State) : Result := .next (s.skipIf (s.reg x == nn))

/-- SNE VX, NN (40_flow.md R104). -/
def execSneImm (x : RegIdx) (nn : Byte) (s : State) : Result := .next (s.skipIf (s.reg x != nn))

/-- SE VX, VY (40_flow.md R105). -/
def execSeReg (x y : RegIdx) (s : State) : Result := .next (s.skipIf (s.reg x == s.reg y))

/-- SNE VX, VY (40_flow.md R106). -/
def execSneReg (x y : RegIdx) (s : State) : Result := .next (s.skipIf (s.reg x != s.reg y))

/-- JP V0, NNN: the sum is not masked to 12 bits (40_flow.md R107). -/
def execJpV0 (nnn : Word) (s : State) : Result := .next (s.jumpTo (nnn + zext (s.reg 0)))

end Sys2Proof.Machine
end

