-- ==== Sys2Proof/Machine/Index.lean ====
section
/-! DEFINITION. Index register and memory transfers (42_index_memory.md): the Execute part of each instruction. -/

namespace Sys2Proof.Machine

/-- `I <- (I + X + 1) mod 2^16`, the advance of FX55 and FX65 (42_index_memory.md R154, R155). -/
def State.advanceI (s : State) (x : RegIdx) : State := { s with i := s.i + BitVec.ofNat 16 (x.val + 1) }

/-- LD I, NNN (42_index_memory.md R150). -/
def execLdI (nnn : Word) (s : State) : Result := .next { s with i := nnn }

/-- ADD I, VX (42_index_memory.md R151). -/
def execAddI (x : RegIdx) (s : State) : Result := .next { s with i := s.i + zext (s.reg x) }

/-- LD F, VX: VX is not masked (42_index_memory.md R152). -/
def execLdF (x : RegIdx) (s : State) : Result := .next { s with i := BitVec.ofNat 16 ((s.reg x).toNat * 5) }

/-- LD B, VX (42_index_memory.md R153). -/
def execLdB (x : RegIdx) (s : State) : Result :=
  match s.storeRange s.i (bcdDigits (s.reg x)) with
  | .ok t => .next t
  | .error a => raiseHalt s .memoryBounds a

/-- LD [I], VX (42_index_memory.md R154). -/
def execLdMemVx (x : RegIdx) (s : State) : Result :=
  match s.storeRange s.i (s.regsUpTo x) with
  | .ok t => .next (t.advanceI x)
  | .error a => raiseHalt s .memoryBounds a

/-- LD VX, [I] (42_index_memory.md R155). -/
def execLdVxMem (x : RegIdx) (s : State) : Result :=
  match s.loadRange s.i (x.val + 1) with
  | .ok bs => .next ({ s with v := setRegsFrom s.v 0 bs }.advanceI x)
  | .error a => raiseHalt s .memoryBounds a

end Sys2Proof.Machine
end

