-- ==== Sys2Proof/Machine/Keys.lean ====
section
/-! DEFINITION. Keys and timers (44_timers_keys.md): the Execute part of each instruction. -/

namespace Sys2Proof.Machine

/-- Whether key `k` of the step's sample is down; `none` when the index is above 15 (44_timers_keys.md R190). -/
def State.keyState (s : State) (k : Byte) : Option Bool :=
  if k.toNat ≤ 15 then some (s.draws.keyDown.getLsbD k.toNat) else none

/-- SKP VX (44_timers_keys.md R190). -/
def execSkp (x : RegIdx) (s : State) : Result :=
  match s.keyState (s.reg x) with
  | some down => .next (s.skipIf down)
  | none => raiseHalt s .keyIndexRange (zext (s.reg x))

/-- SKNP VX (44_timers_keys.md R191). -/
def execSknp (x : RegIdx) (s : State) : Result :=
  match s.keyState (s.reg x) with
  | some down => .next (s.skipIf (!down))
  | none => raiseHalt s .keyIndexRange (zext (s.reg x))

/-- LD VX, DT: DT before this step's countdown (44_timers_keys.md R192). -/
def execLdVxDt (x : RegIdx) (s : State) : Result := .next (s.setReg x s.dt)

/-- LD VX, K: with no key down, PC goes back by 2 so that the uniform advance re-fetches this instruction; otherwise the
index of some key that is down (44_timers_keys.md R193). -/
def execLdVxK (x : RegIdx) (s : State) : Result :=
  match pickKey s.draws.keyDown s.draws.keyPick with
  | some k => .next (s.setReg x (BitVec.ofNat 8 k.val))
  | none => .next { s with pc := s.pc - 2 }

/-- LD DT, VX (44_timers_keys.md R194). -/
def execLdDtVx (x : RegIdx) (s : State) : Result := .next { s with dt := s.reg x }

/-- LD ST, VX (44_timers_keys.md R195). -/
def execLdStVx (x : RegIdx) (s : State) : Result := .next { s with st := s.reg x }

end Sys2Proof.Machine
end

