-- ==== Sys2Proof/Syntax.lean ====
section
/-! DEFINITION. The instructions: one constructor per row of the opcode map (30_encoding.md R86). -/

namespace Sys2Proof

/-- The 34 instructions of 30_encoding.md R86, in the table's order.
`nnn` is the 12-bit address zero-extended to 16 bits (R82), `nn` the 8-bit immediate, `n` DRW's row count.
`WellFormed.lean` says which values of `nnn` and `n` a word can hold. -/
inductive Instr where
  /-- `00E0`: clear the framebuffer (43_display.md R171). -/
  | cls
  /-- `00EE`: return from subroutine (40_flow.md R100). -/
  | ret
  /-- `1NNN`: jump (R101). -/
  | jp (nnn : Word)
  /-- `2NNN`: call (R102). -/
  | call (nnn : Word)
  /-- `3XNN`: skip if VX = NN (R103). -/
  | seImm (x : RegIdx) (nn : Byte)
  /-- `4XNN`: skip if VX ≠ NN (R104). -/
  | sneImm (x : RegIdx) (nn : Byte)
  /-- `5XY0`: skip if VX = VY (R105). -/
  | seReg (x y : RegIdx)
  /-- `6XNN`: VX ← NN (41_alu.md R123). -/
  | ldImm (x : RegIdx) (nn : Byte)
  /-- `7XNN`: VX ← VX + NN, no flag (R124). -/
  | addImm (x : RegIdx) (nn : Byte)
  /-- `8XY0`: VX ← VY (R125). -/
  | ldReg (x y : RegIdx)
  /-- `8XY1`: VX ← VX OR VY (R126). -/
  | orReg (x y : RegIdx)
  /-- `8XY2`: VX ← VX AND VY (R127). -/
  | andReg (x y : RegIdx)
  /-- `8XY3`: VX ← VX XOR VY (R128). -/
  | xorReg (x y : RegIdx)
  /-- `8XY4`: add with carry into VF (R129). -/
  | addReg (x y : RegIdx)
  /-- `8XY5`: VX ← VX − VY, VF ← no borrow (R130). -/
  | sub (x y : RegIdx)
  /-- `8XY6`: shift right; Y is decoded and never read (R131). -/
  | shr (x y : RegIdx)
  /-- `8XY7`: reversed subtraction flag, value by ALU_VARIANT (R132). -/
  | subn (x y : RegIdx)
  /-- `8XYE`: shift left; Y is decoded and never read (R133). -/
  | shl (x y : RegIdx)
  /-- `9XY0`: skip if VX ≠ VY (40_flow.md R106). -/
  | sneReg (x y : RegIdx)
  /-- `ANNN`: I ← NNN (42_index_memory.md R150). -/
  | ldI (nnn : Word)
  /-- `BNNN`: jump to NNN + V0 (40_flow.md R107). -/
  | jpV0 (nnn : Word)
  /-- `CXNN`: VX ← random byte AND NN (41_alu.md R134). -/
  | rnd (x : RegIdx) (nn : Byte)
  /-- `DXYN`: draw an N-row sprite (43_display.md R172). -/
  | drw (x y : RegIdx) (n : Nat)
  /-- `EX9E`: skip if key VX is down (44_timers_keys.md R190). -/
  | skp (x : RegIdx)
  /-- `EXA1`: skip if key VX is not down (R191). -/
  | sknp (x : RegIdx)
  /-- `FX07`: VX ← DT (R192). -/
  | ldVxDt (x : RegIdx)
  /-- `FX0A`: wait for a key (R193). -/
  | ldVxK (x : RegIdx)
  /-- `FX15`: DT ← VX (R194). -/
  | ldDtVx (x : RegIdx)
  /-- `FX18`: ST ← VX (R195). -/
  | ldStVx (x : RegIdx)
  /-- `FX1E`: I ← I + VX (42_index_memory.md R151). -/
  | addI (x : RegIdx)
  /-- `FX29`: I ← VX × 5 (R152). -/
  | ldF (x : RegIdx)
  /-- `FX33`: BCD of VX at I, I+1, I+2 (R153). -/
  | ldB (x : RegIdx)
  /-- `FX55`: store V0..VX at I (R154). -/
  | ldMemVx (x : RegIdx)
  /-- `FX65`: load V0..VX from I (R155). -/
  | ldVxMem (x : RegIdx)
deriving DecidableEq, Repr

end Sys2Proof
end

