-- ==== Sys2Proof/WellFormed.lean ====
section
/-! DEFINITION. Which instructions a 16-bit word can hold: the widths of NNN and N (30_encoding.md R81).
Register numbers and NN have no check of their own: their types hold exactly the values of their fields. -/

namespace Sys2Proof

/-- NNN is a 12-bit field, zero-extended (30_encoding.md R81, R82). -/
def Instr.addrOk (nnn : Word) : Bool := decide (nnn.toNat < 0x1000)

/-- DRW's N is a 4-bit field, a count 0 to 15 (30_encoding.md R81, R82). -/
def Instr.countOk (n : Nat) : Bool := decide (n < 16)

/-- The instruction has an encoding: every operand fits its field of 30_encoding.md R81. -/
def Instr.wf : Instr → Bool
  | .cls => true
  | .ret => true
  | .jp nnn => addrOk nnn
  | .call nnn => addrOk nnn
  | .seImm _ _ => true
  | .sneImm _ _ => true
  | .seReg _ _ => true
  | .ldImm _ _ => true
  | .addImm _ _ => true
  | .ldReg _ _ => true
  | .orReg _ _ => true
  | .andReg _ _ => true
  | .xorReg _ _ => true
  | .addReg _ _ => true
  | .sub _ _ => true
  | .shr _ _ => true
  | .subn _ _ => true
  | .shl _ _ => true
  | .sneReg _ _ => true
  | .ldI nnn => addrOk nnn
  | .jpV0 nnn => addrOk nnn
  | .rnd _ _ => true
  | .drw _ _ n => countOk n
  | .skp _ => true
  | .sknp _ => true
  | .ldVxDt _ => true
  | .ldVxK _ => true
  | .ldDtVx _ => true
  | .ldStVx _ => true
  | .addI _ => true
  | .ldF _ => true
  | .ldB _ => true
  | .ldMemVx _ => true
  | .ldVxMem _ => true

end Sys2Proof
end

