-- ==== Sys2Proof/Machine/Cycle.lean ====
section
/-! DEFINITION. What a step does around the instruction (10_state.md R51): the checks and the fetch before it,
the uniform advance and the timer countdown after it. -/

namespace Sys2Proof.Machine

/-- `beep <- 0; draw_request <- 0`, the first line of a step (10_state.md R51). -/
def State.clearPulses (s : State) : State := { s with beep := false, drawRequest := false }

/-- `Fetch(PC)`, high byte first, or the address recorded with Halt(MemoryBounds) (20_memory.md R65). -/
def State.fetch (s : State) : Except Word Word :=
  match s.memRead s.pc.toNat with
  | .error a => .error a
  | .ok hi =>
    match s.memRead (s.pc.toNat + 1) with
    | .error a => .error a
    | .ok lo => .ok (bigEndian hi lo)

/-- The fetched word is the hi-res sentinel: 0x1260 at PC = 0x200 (10_state.md R53). -/
def State.isSentinel (s : State) (w : Word) : Bool := decide (s.pc = 0x200 ∧ w = hiresSentinel)

/-- The word executed for a fetched word (10_state.md R53). -/
def State.executedWord (s : State) (w : Word) : Word := if s.isSentinel w then hiresSubstitute else w

/-- The state in which the word is executed: the sentinel sets hires (10_state.md R53). -/
def State.sniff (s : State) (w : Word) : State := if s.isSentinel w then { s with hires := true } else s

/-- PC is at or past the end of the loaded bytes (10_state.md R52). -/
def State.atEnd (s : State) : Bool := decide (0x200 + s.progLen ≤ s.pc.toNat)

/-- What the checks of a step before Execute decide (60_exceptions.md R214, checks 2 to 5). -/
inductive Fetched where
  /-- A halt before execution. -/
  | halt (reason : HaltReason) (info : Word)
  /-- A dispatch-ambiguous word. -/
  | ambiguous (w : Word)
  /-- The word executed, its instruction, and the state it executes in. -/
  | run (w : Word) (i : Instr) (s : State)
deriving DecidableEq, Repr

/-- The checks of a step in the order of 60_exceptions.md R214: end of program, fetch bounds, sentinel, decode. -/
def State.fetchDecode (s : State) : Fetched :=
  if s.atEnd then .halt .endOfProgram s.pc
  else
    match s.fetch with
    | .error a => .halt .memoryBounds a
    | .ok w =>
      match decode (s.executedWord w) with
      | .unknown => .halt .unknownInstruction (s.executedWord w)
      | .ambiguous => .ambiguous (s.executedWord w)
      | .instr i => .run (s.executedWord w) i (s.sniff w)

/-- The uniform advance (10_state.md R55). -/
def State.advance (s : State) : State := { s with pc := s.pc + 2 }

/-- A timer counts down by one and stays at 0 (60_exceptions.md R219). -/
def countdown (t : Byte) : Byte := if t = 0 then 0 else t - 1

/-- `TimerTick()` (60_exceptions.md R219): both timers count down; beep is 1 when ST was exactly 1 before. -/
def State.timerTick (s : State) : State :=
  { s with dt := countdown s.dt, st := countdown s.st, beep := s.beep || decide (s.st = 1) }

/-- Fresh inputs and free values for the next step (10_state.md R22, R23; log entry 6). -/
def State.redraw (s : State) : State := { s with draws := Config.freeDraws s.drawCount, drawCount := s.drawCount + 1 }

/-- The end of a step that completes: uniform advance, timer countdown, fresh draws (10_state.md R51, R55). -/
def State.finish (s : State) : State := s.advance.timerTick.redraw

/-- A step completes only when its instruction did; a halt has no advance and no countdown (10_state.md R51, R54). -/
def finishStep : Result → Result
  | .next s => .next s.finish
  | .fault f => .fault f
  | .refused r => .refused r

end Sys2Proof.Machine
end

