-- ==== Sys2Proof/Machine/Load.lean ====
section
/-! DEFINITION. The host's LOAD command (70_reset_and_hazards.md), and the placing of one word to run. -/

namespace Sys2Proof.Machine

/-- The state LOAD sets up before it looks at the image (70_reset_and_hazards.md R241): every element at its reset value,
memory FONT and zeros, not loaded. The parameters are the machine's own and stay; the next step's inputs are drawn afresh. -/
def State.cleared (s : State) : State :=
  ({ State.reset with cfg := s.cfg, drawCount := s.drawCount } : State).redraw

/-- The size of a loadable image: 1 to 3584 bytes (70_reset_and_hazards.md R242). -/
def imageOk (n : Nat) : Bool := decide (1 ≤ n ∧ n ≤ maxImage)

/-- `LOAD(image)` (70_reset_and_hazards.md R241 to R243), in every run state (R240); `none` is an unreadable image. -/
def State.load (image : Option (List Byte)) (s : State) : State :=
  match image with
  | none => s.cleared
  | some bytes =>
    if imageOk bytes.length then
      { s.cleared.pokes 0x200 bytes with progLen := bytes.length, gameLoaded := true, runState := .running }
    else s.cleared

/-- The address at which a placed word is fetched: PC, or 0x200 where no two bytes can be fetched at PC. -/
def State.placeAt (s : State) : Word := if s.pc.toNat < 0xFFF then s.pc else 0x200

/-- Store a word where the next step fetches, and make the machine a loaded, running one whose loaded bytes reach past it
(log entries 3 and 16). -/
def State.placeWord (s : State) (w : Word) : State :=
  { s.pokes s.placeAt.toNat [hiByte w, loByte w] with
    pc := s.placeAt
    progLen := max s.progLen (max 1 (s.placeAt.toNat + 2 - 0x200))
    gameLoaded := true
    runState := .running }

end Sys2Proof.Machine
end

