-- ==== Sys2Proof/Machine/Step.lean ====
section
/-! DEFINITION. One STEP (10_state.md R51), and the placing of one word for the host's questions. -/

namespace Sys2Proof.Machine

/-- One STEP in the order of 10_state.md R51 and 60_exceptions.md R214; it has a move only while Running (R50). -/
def step (s : State) : Host.Outcome State Fault Refusal :=
  match s.runState with
  | .notLoaded => .fault .stepNotLoaded
  | .halted _ _ => .fault .stepAfterHalt
  | .running =>
    match s.clearPulses.fetchDecode with
    | .halt reason info => raiseHalt s reason info
    | .ambiguous w => .refused (.dispatchAmbiguous w)
    | .run _ i t => finishStep (exec i t)

/-- `s` with the table word stored where `step` fetches next; it stands for the LOAD that brings a program (log entry 3). -/
def State.withFetchWord (s : State) (nbits w : Nat) : State := s.placeWord (tableWord nbits w)

end Sys2Proof.Machine
end

