-- ==== Sys2Proof/Machine/Commands.lean ====
section
/-! DEFINITION. The three host commands and the output ports (10_state.md R20, R21). -/

namespace Sys2Proof.Machine

/-- The codes of `halt_reason` (60_exceptions.md R210). -/
def HaltReason.code : HaltReason → Nat
  | .endOfProgram => 1
  | .unknownInstruction => 2
  | .stackUnderflow => 3
  | .stackOverflow => 4
  | .memoryBounds => 5
  | .keyIndexRange => 6

/-- The class of a halt: a fatal halt is an error, a clean one a normal end of the run (60_exceptions.md R211). -/
def HaltReason.fatal : HaltReason → Bool
  | .endOfProgram => false
  | .unknownInstruction => false
  | .stackUnderflow => true
  | .stackOverflow => true
  | .memoryBounds => true
  | .keyIndexRange => true

/-- The outcome of a STEP at the port `step_result` (10_state.md R20, R21). -/
inductive StepResult where
  | cont
  | halted
deriving DecidableEq, Repr

/-- The port `step_result` after a STEP (10_state.md R21): Halted exactly when the run has ended. -/
def State.stepResult (s : State) : StepResult :=
  match s.runState with
  | .halted _ _ => .halted
  | .running => .cont
  | .notLoaded => .cont

/-- The port `halt_reason`: 0 while no halt is recorded (10_state.md R20; 60_exceptions.md R210). -/
def State.haltReasonOut (s : State) : Nat :=
  match s.runState with
  | .halted r _ => r.code
  | .running => 0
  | .notLoaded => 0

/-- The port `halt_info` (10_state.md R20; 60_exceptions.md R210). -/
def State.haltInfoOut (s : State) : Word :=
  match s.runState with
  | .halted _ info => info
  | .running => 0
  | .notLoaded => 0

/-- The port `load_ok` after a LOAD (10_state.md R20, R44). -/
def State.loadOk (s : State) : Bool := s.gameLoaded

/-- The port `res_out`: columns and rows of the active resolution (43_display.md R174). -/
def State.resOut (s : State) : Nat × Nat := if s.hires then (64, 64) else (64, 32)

/-- The bytes of one rendered cell: 255 in every channel when set, 0 otherwise (43_display.md R174). -/
def pixelBytes (set : Bool) : List Byte := List.replicate renderChannels (if set then 255 else 0)

/-- RENDER (43_display.md R174): the active cells in order, each as RENDER_CHANNELS bytes. -/
def State.render (s : State) : List Byte :=
  (List.range s.cells).flatMap (fun c => pixelBytes (FrameBuf.cell s.fb c))

/-- The STEP command at the ports: a fatal halt too leaves the state of 60_exceptions.md R215, from which only LOAD leads on
(R217; log entry 1). -/
def State.stepCommand (s : State) : Result :=
  match step s with
  | .fault f =>
    match f.halt? with
    | some (reason, info) => .next (s.haltEntry reason info)
    | none => .fault f
  | .next t => .next t
  | .refused r => .refused r

/-- The trace record (60_exceptions.md R225): the word executed, its family and its operand fields. -/
structure TraceRecord where
  opcode : Word
  family : Nat
  x : RegIdx
  y : RegIdx
  n : Nat
  nn : Byte
  nnn : Word
deriving DecidableEq, Repr

/-- The record of a word (60_exceptions.md R225; the format is the model's, log entry 10). -/
def traceRecord (w : Word) : TraceRecord :=
  { opcode := w, family := fieldF w, x := fieldX w, y := fieldY w, n := fieldN w, nn := fieldNN w, nnn := fieldNNN w }

/-- The trace record of the step that `s` takes, when that step executes an instruction (60_exceptions.md R225). -/
def State.trace (s : State) : Option TraceRecord :=
  match s.runState with
  | .running =>
    match s.clearPulses.fetchDecode with
    | .run w _ _ => some (traceRecord w)
    | .halt _ _ => none
    | .ambiguous _ => none
  | .notLoaded => none
  | .halted _ _ => none

/-- The host's commands (10_state.md R20). -/
inductive Command where
  | load (image : Option (List Byte))
  | step
  | render
deriving DecidableEq, Repr

/-- The state after a command (10_state.md R20); RENDER changes none (43_display.md R174). -/
def State.command (c : Command) (s : State) : Result :=
  match c with
  | .load image => .next (s.load image)
  | .step => s.stepCommand
  | .render => .next s

end Sys2Proof.Machine
end

