-- ==== Sys2Proof/Safety.lean ====
section
/-! DEFINITION. What claims about runs speak of: the machine's invariant, completed runs, and the frames of an instruction. -/

namespace Sys2Proof.Machine

/-- What LOAD sets up and every step keeps. -/
structure State.Inv (s : State) : Prop where
  /-- Memory is in its canonical form, inside 0x000 to 0xFFF (20_memory.md R60). -/
  mem : Memory.wf s.cfg.font s.mem
  /-- The stack holds at most STACK_DEPTH entries (10_state.md R33). -/
  stack : s.stack.length ≤ stackDepth
  /-- prog_len is at most MAX_IMAGE (10_state.md R43). -/
  progLen : s.progLen ≤ maxImage
  /-- game_loaded is 1 exactly when the run state is Running or Halted (10_state.md R45). -/
  loaded : s.gameLoaded = true ↔ s.runState ≠ .notLoaded
  /-- prog_len is at least 1 after a successful LOAD and 0 otherwise (10_state.md R43; 70_reset_and_hazards.md R243). -/
  lenLoaded : s.gameLoaded = true ↔ 1 ≤ s.progLen
  /-- In low-res the inactive cells are 0 (43_display.md R171, corner case). -/
  inactive : s.hires = false → ∀ c, 2048 ≤ c → FrameBuf.cell s.fb c = false

/-- `k` steps complete without a fault or a refusal and end in a state with `P`. A run that reaches a fatal halt satisfies no
postcondition (60_exceptions.md R211), nor does one that reaches a refused word (30_encoding.md R89). -/
def RunSatisfies (k : Nat) (s : State) (P : State → Prop) : Prop :=
  ∃ t, Host.Core.run Sys2Proof.core k s = .next t ∧ P t

/-- The next step neither faults nor is refused. -/
def StepSafe (s : State) : Prop := ∃ t, step s = .next t

/-- The machine is Running and its next fetch reads the word `w` at PC, below the end of the loaded bytes. -/
structure State.Fetches (s : State) (w : Word) : Prop where
  running : s.runState = .running
  loaded : s.pc.toNat < 0x200 + s.progLen
  inMemory : s.pc.toNat + 1 < 0x1000
  high : s.peek s.pc.toNat = hiByte w
  low : s.peek (s.pc.toNat + 1) = loByte w

/-- The next fetch reads `w`, and the word executed for it, the sentinel's substitute at PC = 0x200 (10_state.md R53), decodes
to `i`: the step runs `i`. -/
structure State.Runs (s : State) (w : Word) (i : Instr) : Prop where
  fetches : s.Fetches w
  decodes : decode (if s.pc = 0x200 ∧ w = 0x1260 then 0x12C0 else w) = .instr i

/-- The state in which a step runs the instruction of the fetched word `w`: pulses cleared, hires set by the sentinel
(10_state.md R51, R53). -/
def State.start (s : State) (w : Word) : State :=
  { s with beep := false, drawRequest := false, hires := s.hires || decide (s.pc = 0x200 ∧ w = 0x1260) }

/-- Every element LOAD resets, whatever the image, at its value of 10_state.md R48. -/
structure State.ResetElements (t : State) : Prop where
  v : ∀ r, t.reg r = 0
  i : t.i = 0
  pc : t.pc = 0x200
  stack : t.stack = []
  dt : t.dt = 0
  st : t.st = 0
  hires : t.hires = false
  fb : ∀ c, FrameBuf.cell t.fb c = false

/-! ## Frames -/

/-- Every general register outside the list is unchanged. -/
def KeepsRegs (s t : State) (except : List RegIdx) : Prop := ∀ r, r ∉ except → t.reg r = s.reg r

/-- Every byte of memory outside the `n` bytes from `base` up reads as before. -/
def KeepsMemory (s t : State) (base n : Nat) : Prop := ∀ a, (a < base ∨ base + n ≤ a) → t.peek a = s.peek a

/-- A cell is lit by the sprite of a DRW in `s`: some set bit of some of its `n` rows falls on it (43_display.md R172). -/
def State.SpriteLights (s : State) (x y : RegIdx) (n c : Nat) : Prop :=
  ∃ row col, row < n ∧ col < 8 ∧ (s.peek (s.i.toNat + row)).getLsbD (7 - col) = true ∧
    c = (((s.reg x).toNat + col) + ((s.reg y).toNat + row) * 64) % (if s.hires then 4096 else 2048)

end Sys2Proof.Machine

namespace Sys2Proof

open Machine

/-! ## What each instruction may touch -/

/-- The registers an instruction may write: its destination and, for the flag-writing instructions, VF (10_state.md R26). -/
def Instr.writesReg (i : Instr) (r : RegIdx) : Prop :=
  match i with
  | .ldImm x _ => r = x
  | .addImm x _ => r = x
  | .ldReg x _ => r = x
  | .orReg x _ => r = x
  | .andReg x _ => r = x
  | .xorReg x _ => r = x
  | .addReg x _ => r = x ∨ r = 15
  | .sub x _ => r = x ∨ r = 15
  | .shr x _ => r = x ∨ r = 15
  | .subn x _ => r = x ∨ r = 15
  | .shl x _ => r = x ∨ r = 15
  | .rnd x _ => r = x
  | .drw _ _ _ => r = 15
  | .ldVxDt x => r = x
  | .ldVxK x => r = x
  | .ldVxMem x => r ≤ x
  | .cls => False
  | .ret => False
  | .jp _ => False
  | .call _ => False
  | .seImm _ _ => False
  | .sneImm _ _ => False
  | .seReg _ _ => False
  | .sneReg _ _ => False
  | .ldI _ => False
  | .jpV0 _ => False
  | .skp _ => False
  | .sknp _ => False
  | .ldDtVx _ => False
  | .ldStVx _ => False
  | .addI _ => False
  | .ldF _ => False
  | .ldB _ => False
  | .ldMemVx _ => False

/-- The number of bytes an instruction stores from I up: 3 for FX33, X + 1 for FX55, none for any other (20_memory.md R68). -/
def Instr.storedBytes : Instr → Nat
  | .ldB _ => 3
  | .ldMemVx x => x.val + 1
  | .cls => 0
  | .ret => 0
  | .jp _ => 0
  | .call _ => 0
  | .seImm _ _ => 0
  | .sneImm _ _ => 0
  | .seReg _ _ => 0
  | .ldImm _ _ => 0
  | .addImm _ _ => 0
  | .ldReg _ _ => 0
  | .orReg _ _ => 0
  | .andReg _ _ => 0
  | .xorReg _ _ => 0
  | .addReg _ _ => 0
  | .sub _ _ => 0
  | .shr _ _ => 0
  | .subn _ _ => 0
  | .shl _ _ => 0
  | .sneReg _ _ => 0
  | .ldI _ => 0
  | .jpV0 _ => 0
  | .rnd _ _ => 0
  | .drw _ _ _ => 0
  | .skp _ => 0
  | .sknp _ => 0
  | .ldVxDt _ => 0
  | .ldVxK _ => 0
  | .ldDtVx _ => 0
  | .ldStVx _ => 0
  | .addI _ => 0
  | .ldF _ => 0
  | .ldVxMem _ => 0

/-- PC after a step that runs an instruction, by the table of 10_state.md R56. -/
def Instr.pcAfter (s : State) : Instr → Word
  | .jp nnn => nnn
  | .call nnn => nnn
  | .jpV0 nnn => nnn + BitVec.ofNat 16 (s.reg 0).toNat
  | .ret => s.stack.getLast?.getD 0 + 2
  | .seImm x nn => if s.reg x = nn then s.pc + 4 else s.pc + 2
  | .sneImm x nn => if s.reg x ≠ nn then s.pc + 4 else s.pc + 2
  | .seReg x y => if s.reg x = s.reg y then s.pc + 4 else s.pc + 2
  | .sneReg x y => if s.reg x ≠ s.reg y then s.pc + 4 else s.pc + 2
  | .skp x => if s.draws.keyDown.getLsbD (s.reg x).toNat = true then s.pc + 4 else s.pc + 2
  | .sknp x => if s.draws.keyDown.getLsbD (s.reg x).toNat = true then s.pc + 2 else s.pc + 4
  | .ldVxK _ => if s.draws.keyDown = 0 then s.pc else s.pc + 2
  | .cls => s.pc + 2
  | .ldImm _ _ => s.pc + 2
  | .addImm _ _ => s.pc + 2
  | .ldReg _ _ => s.pc + 2
  | .orReg _ _ => s.pc + 2
  | .andReg _ _ => s.pc + 2
  | .xorReg _ _ => s.pc + 2
  | .addReg _ _ => s.pc + 2
  | .sub _ _ => s.pc + 2
  | .shr _ _ => s.pc + 2
  | .subn _ _ => s.pc + 2
  | .shl _ _ => s.pc + 2
  | .ldI _ => s.pc + 2
  | .rnd _ _ => s.pc + 2
  | .drw _ _ _ => s.pc + 2
  | .ldVxDt _ => s.pc + 2
  | .ldDtVx _ => s.pc + 2
  | .ldStVx _ => s.pc + 2
  | .addI _ => s.pc + 2
  | .ldF _ => s.pc + 2
  | .ldB _ => s.pc + 2
  | .ldMemVx _ => s.pc + 2
  | .ldVxMem _ => s.pc + 2

/-- The states in which an instruction raises a fatal halt, and its fault (60_exceptions.md R210). -/
def Instr.FaultsIn (s : State) : Instr → Fault → Prop
  | .ret, f => s.stack = [] ∧ f = .stackUnderflow
  | .call _, f => 16 ≤ s.stack.length ∧ f = .stackOverflow s.pc
  | .skp x, f => 15 < (s.reg x).toNat ∧ f = .keyIndexRange (BitVec.ofNat 16 (s.reg x).toNat)
  | .sknp x, f => 15 < (s.reg x).toNat ∧ f = .keyIndexRange (BitVec.ofNat 16 (s.reg x).toNat)
  | .drw _ _ n, f =>
    0 < n ∧ 0x1000 ≤ s.i.toNat + n - 1 ∧ f = .memoryBounds (BitVec.ofNat 16 (max s.i.toNat 0x1000))
  | .ldB _, f => 0x1000 ≤ s.i.toNat + 2 ∧ f = .memoryBounds (BitVec.ofNat 16 (max s.i.toNat 0x1000))
  | .ldMemVx x, f => 0x1000 ≤ s.i.toNat + x.val ∧ f = .memoryBounds (BitVec.ofNat 16 (max s.i.toNat 0x1000))
  | .ldVxMem x, f => 0x1000 ≤ s.i.toNat + x.val ∧ f = .memoryBounds (BitVec.ofNat 16 (max s.i.toNat 0x1000))
  | .cls, _ => False
  | .jp _, _ => False
  | .seImm _ _, _ => False
  | .sneImm _ _, _ => False
  | .seReg _ _, _ => False
  | .sneReg _ _, _ => False
  | .jpV0 _, _ => False
  | .ldImm _ _, _ => False
  | .addImm _ _, _ => False
  | .ldReg _ _, _ => False
  | .orReg _ _, _ => False
  | .andReg _ _, _ => False
  | .xorReg _ _, _ => False
  | .addReg _ _, _ => False
  | .sub _ _, _ => False
  | .shr _ _, _ => False
  | .subn _ _, _ => False
  | .shl _ _, _ => False
  | .ldI _, _ => False
  | .rnd _ _, _ => False
  | .ldVxDt _, _ => False
  | .ldVxK _, _ => False
  | .ldDtVx _, _ => False
  | .ldStVx _, _ => False
  | .addI _, _ => False
  | .ldF _, _ => False

end Sys2Proof
end

