-- ==== Sys2Proof/Certificates/Slice0/Obligations.lean ====
section
/-! DEFINITION. The statements for the provers. Each docstring says which rule of spec/ it formalises. -/

open Sys2Proof Sys2Proof.Machine

/-! ## Encoding and decoding -/

/-- 30_encoding.md R84, R86: decoding an encoded well-formed instruction gives it back, as a word and as bytes. -/
def Obligations.DecodeOfEncodeIsTheInstruction : Prop :=
  ∀ (i : Instr) (rest : List Byte), i.wf = true →
    decode (encode i) = .instr i ∧ decodeBytes (encodeBytes i ++ rest) = some (.instr i, rest)

/-- 30_encoding.md R84, R86: a word that decodes to an instruction is the encoding of that well-formed instruction. -/
def Obligations.EncodeOfDecodeIsTheWord : Prop :=
  ∀ (w : Word) (i : Instr), decode w = .instr i → i.wf = true ∧ encode i = w

/-- 30_encoding.md R86: a word decodes to an instruction with mnemonic `m` exactly when it has the fixed bits of the row `m`
of the opcode map. -/
def Obligations.WordDecodesToItsOpcodeRow : Prop :=
  ∀ (w : Word) (m : String),
    (∃ i, decode w = .instr i ∧ i.mnemonic = m) ↔ ∃ r ∈ opcodeRows, r.mnemonic = m ∧ r.holds w = true

/-- 30_encoding.md R81, R86: words written out from the patterns decode to their instructions. -/
def Obligations.WrittenWordsDecode : Prop :=
  decode 0x00E0 = .instr .cls ∧ decode 0x00EE = .instr .ret ∧ decode 0x1234 = .instr (.jp 0x234) ∧
  decode 0x8AB5 = .instr (.sub 0xA 0xB) ∧ decode 0xC7F1 = .instr (.rnd 7 0xF1) ∧
  decode 0xD125 = .instr (.drw 1 2 5) ∧ decode 0xE5A1 = .instr (.sknp 5) ∧ decode 0xFE65 = .instr (.ldVxMem 14)

/-- 30_encoding.md R88, 10_state.md R54: the unknown words are exactly these, and a step that fetches one halts with
UnknownInstruction and the word recorded, changing nothing else. -/
def Obligations.UnknownWordsHalt : Prop :=
  ∀ w : Word,
    (decode w = .unknown ↔
      (w.toNat / 0x1000 = 0 ∧ w.toNat % 16 ≠ 0 ∧ w.toNat % 16 ≠ 0xE) ∨
      (w.toNat / 0x1000 = 8 ∧ w.toNat % 16 ∈ [0x8, 0x9, 0xA, 0xB, 0xC, 0xD, 0xF]) ∨
      (w.toNat / 0x1000 = 0xE ∧ w.toNat % 16 ≠ 0xE ∧ w.toNat % 16 ≠ 1) ∨
      (w.toNat / 0x1000 = 0xF ∧
        w.toNat % 256 ∉ [0x07, 0x0A, 0x15, 0x18, 0x1E, 0x29, 0x33, 0x55, 0x65])) ∧
    (decode w = .unknown → ∀ s : State, s.Fetches w → ∃ t, step s = .next t ∧
      t = { s with runState := .halted .unknownInstruction w, beep := false, drawRequest := false })

/-- 30_encoding.md R89: the dispatch-ambiguous words are exactly these, and a step that fetches one is refused with the word. -/
def Obligations.AmbiguousWordsAreRefused : Prop :=
  ∀ w : Word,
    (decode w = .ambiguous ↔
      (w.toNat / 0x1000 = 0 ∧ (w.toNat % 16 = 0 ∨ w.toNat % 16 = 0xE) ∧ w ≠ 0x00E0 ∧ w ≠ 0x00EE) ∨
      ((w.toNat / 0x1000 = 5 ∨ w.toNat / 0x1000 = 9) ∧ w.toNat % 16 ≠ 0) ∨
      (w.toNat / 0x1000 = 0xE ∧ (w.toNat % 16 = 0xE ∨ w.toNat % 16 = 1) ∧ w.toNat % 256 ≠ 0x9E ∧
        w.toNat % 256 ≠ 0xA1)) ∧
    (decode w = .ambiguous → ∀ s : State, s.Fetches w → step s = .refused (.dispatchAmbiguous w))

/-! ## The step -/

/-- 20_memory.md R65: the fetch reads two bytes, the one at the lower address in bits 15:8; a fetch that passes the
end-of-program check leaves memory only from PC = 0xFFF, and then the step faults with MemoryBounds at 0x1000. -/
def Obligations.FetchReadsBigEndianOrFaults : Prop :=
  ∀ s : State,
    (s.pc.toNat + 1 < 0x1000 → ∃ w, s.fetch = .ok w ∧
      w.toNat = (s.peek s.pc.toNat).toNat * 256 + (s.peek (s.pc.toNat + 1)).toNat) ∧
    (s.runState = .running → s.progLen ≤ 3584 → s.pc.toNat < 0x200 + s.progLen → 0x1000 ≤ s.pc.toNat + 1 →
      s.pc = 0xFFF ∧ step s = .fault (.memoryBounds 0x1000))

/-- 10_state.md R51, R53, R55: a step whose bytes at PC decode to `i` (after the sentinel's substitution) runs `exec i` on the
state with the pulses cleared and hires set by the sentinel; a next state of `exec` is followed by PC + 2, the countdown of both
timers, the beep, and fresh draws; a fault of `exec` is the step's. That the inputs and free values of the next step are drawn
from an opaque constant by a counter is the model's DESIGN CHOICE (log entry 6). -/
def Obligations.StepRunsTheDecodedInstruction : Prop :=
  ∀ (s : State) (w : Word) (i : Instr), s.Runs w i →
    (∀ u, exec i (s.start w) = .next u → ∃ t, step s = .next t ∧ t.pc = u.pc + 2 ∧ t.dt.toNat = u.dt.toNat - 1 ∧
      t.st.toNat = u.st.toNat - 1 ∧ t.beep = (u.beep || decide (u.st = 1)) ∧
      t.draws = Config.freeDraws u.drawCount ∧ t.drawCount = u.drawCount + 1 ∧
      t = { u with pc := t.pc, dt := t.dt, st := t.st, beep := t.beep, draws := t.draws, drawCount := t.drawCount }) ∧
    ∀ f, exec i (s.start w) = .fault f → step s = .fault f

/-- 10_state.md R52: at or past the end of the loaded bytes a step halts with EndOfProgram and PC recorded and does nothing
else; below it no step halts so. -/
def Obligations.EndOfProgramHaltsFirst : Prop :=
  ∀ s : State, s.runState = .running →
    (0x200 + s.progLen ≤ s.pc.toNat → step s =
      .next { s with runState := .halted .endOfProgram s.pc, beep := false, drawRequest := false }) ∧
    (s.pc.toNat < 0x200 + s.progLen → ∀ t a, step s = .next t → t.runState ≠ .halted .endOfProgram a)

/-- 10_state.md R50: STEP has a move only while Running; otherwise it stops, before a LOAD and after a halt. That the missing
move is a fault of these two names is the model's choice (log entry 11). -/
def Obligations.StepMovesOnlyWhileRunning : Prop :=
  ∀ s : State,
    (s.runState = .notLoaded → step s = .fault .stepNotLoaded) ∧
    (∀ r a, s.runState = .halted r a → step s = .fault .stepAfterHalt) ∧
    (∀ t, step s = .next t → s.runState = .running) ∧ (∀ r, step s = .refused r → s.runState = .running)

/-- 10_state.md R53, R42: the sentinel at 0x200 sets hires and ends the step at 0x2C0, changing nothing else but the timers and
ports; no other completed step changes hires. -/
def Obligations.SentinelAloneSwitchesToHires : Prop :=
  (∀ s : State, s.Fetches 0x1260 → s.pc = 0x200 → ∃ t, step s = .next t ∧ t.hires = true ∧ t.pc = 0x2C0 ∧
    t = { s with hires := true, pc := 0x2C0, dt := t.dt, st := t.st, beep := t.beep, drawRequest := false,
                 draws := t.draws, drawCount := t.drawCount }) ∧
  (∀ s t : State, step s = .next t → t.hires ≠ s.hires →
    t.hires = true ∧ s.pc = 0x200 ∧ s.peek 0x200 = 0x12 ∧ s.peek 0x201 = 0x60)

/-- 60_exceptions.md R219, R220: at the end of every step that runs an instruction to its end DT and ST count down by one,
staying at 0, and beep is 1 exactly when ST was 1 before the countdown (`u` is the state the instruction leaves); a halting step
counts nothing down and does not beep. -/
def Obligations.TimersCountDownAndBeep : Prop :=
  (∀ (s : State) (w : Word) (i : Instr) (u : State), s.Runs w i → exec i (s.start w) = .next u → ∃ t, step s = .next t ∧
    t.dt.toNat = u.dt.toNat - 1 ∧ t.st.toNat = u.st.toNat - 1 ∧ (t.beep = true ↔ u.st = 1)) ∧
  ∀ s t : State, step s = .next t → t.runState ≠ .running → t.dt = s.dt ∧ t.st = s.st ∧ t.beep = false

/-- 43_display.md R175: draw_request is 1 after a step that ran 00E0 or DXYN and 0 after every other step, and no step reads
it. -/
def Obligations.DrawRequestMarksDrawingSteps : Prop :=
  (∀ s t : State, step s = .next t →
    (t.drawRequest = true ↔ ∃ w i, s.Runs w i ∧ (i = .cls ∨ ∃ x y n, i = .drw x y n))) ∧
  ∀ (s : State) (b : Bool), step { s with drawRequest := b } = step s

/-- 10_state.md R56: PC after a step that runs an instruction, by the table of the rule. -/
def Obligations.PcAfterStepFollowsTheTable : Prop :=
  ∀ (s : State) (w : Word) (i : Instr) (t : State), s.Runs w i → step s = .next t → t.pc = i.pcAfter s

/-- A step that fetches a decodable word completes, still Running, unless its instruction raises one of its fatal halts
(60_exceptions.md R210, R214). -/
def Obligations.StepCompletesUnlessItHalts : Prop :=
  ∀ (s : State) (w : Word) (i : Instr), s.Runs w i → (∀ f, ¬ i.FaultsIn s f) →
    ∃ t, step s = .next t ∧ t.runState = .running

/-- A step is refused only for a dispatch-ambiguous word it fetched (30_encoding.md R89). -/
def Obligations.StepRefusesOnlyAmbiguousWords : Prop :=
  ∀ (s : State) (r : Refusal), step s = .refused r →
    ∃ w, s.fetch = .ok w ∧ decode w = .ambiguous ∧ r = .dispatchAmbiguous w

/-- 10_state.md R30: with even jump targets, PC and every return address stay even. -/
def Obligations.EvenTargetsKeepPcEven : Prop :=
  ∀ (s : State) (w : Word) (i : Instr) (t : State), s.Runs w i → step s = .next t →
    (∀ nnn, i = .jp nnn ∨ i = .call nnn → nnn.toNat % 2 = 0) →
    (∀ nnn, i = .jpV0 nnn → (nnn.toNat + (s.reg 0).toNat) % 2 = 0) →
    s.pc.toNat % 2 = 0 → (∀ a ∈ s.stack, a.toNat % 2 = 0) →
    t.pc.toNat % 2 = 0 ∧ ∀ a ∈ t.stack, a.toNat % 2 = 0

/-! ## Halts -/

/-- 60_exceptions.md R210, R214: exactly when an instruction raises a fatal halt, with the fault's recorded value; no
instruction is refused. -/
def Obligations.InstructionsFaultExactlyWhereTheyHalt : Prop :=
  ∀ (i : Instr) (s : State), (∀ f, exec i s = .fault f ↔ i.FaultsIn s f) ∧ ∀ r, exec i s ≠ .refused r

/-- 60_exceptions.md R215: a halting STEP sets run_state = Halted(reason, info), reports the reason's code and the info, and
leaves every other element as before the step, for a fatal halt (at the ports) and for a clean one. -/
def Obligations.HaltsArePrecise : Prop :=
  (∀ (s : State) (f : Fault) (r : HaltReason) (info : Word), step s = .fault f → f.halt? = some (r, info) →
    r.fatal = true ∧ ∃ t, s.command .step = .next t ∧ t.stepResult = .halted ∧ t.haltReasonOut = r.code ∧
      t.haltInfoOut = info ∧ t = { s with runState := .halted r info, beep := false, drawRequest := false }) ∧
  (∀ (s t : State) (r : HaltReason) (info : Word), step s = .next t → t.runState = .halted r info →
    r.fatal = false ∧ s.command .step = .next t ∧ t.stepResult = .halted ∧ t.haltReasonOut = r.code ∧
      t.haltInfoOut = info ∧ t = { s with runState := .halted r info, beep := false, drawRequest := false })

/-- 60_exceptions.md R217: Halted is absorbing: STEP has no move, and only a LOAD changes the run state; a LOAD with a usable
image resets all state, memory and the program metadata with it, and makes the machine Running again. -/
def Obligations.HaltedIsAbsorbing : Prop :=
  ∀ (s : State) (r : HaltReason) (info : Word), s.runState = .halted r info →
    (∀ c t, s.command c = .next t → t.runState ≠ s.runState → ∃ image, c = .load image) ∧
    (∀ t, s.command .step ≠ .next t) ∧
    ∀ bytes : List Byte, 1 ≤ bytes.length → bytes.length ≤ 3584 →
      ∃ t, s.command (.load (some bytes)) = .next t ∧ t.runState = .running ∧ t.ResetElements ∧
        t.progLen = bytes.length ∧ t.gameLoaded = true ∧
        (∀ (k : Nat) (h : k < bytes.length), t.peek (0x200 + k) = bytes[k]) ∧
        (∀ (k : Nat) (h : k < 80), t.peek k = s.cfg.font[k]) ∧
        ∀ a, 80 ≤ a → (a < 0x200 ∨ 0x200 + bytes.length ≤ a) → t.peek a = 0

/-! ## Reset and LOAD -/

/-- 70_reset_and_hazards.md R241, R244, 10_state.md R48: what a LOAD of 1 to 3584 bytes leaves, whatever the state before. -/
def Obligations.LoadEstablishesEveryElement : Prop :=
  ∀ (s : State) (bytes : List Byte), 1 ≤ bytes.length → bytes.length ≤ 3584 →
    ∃ t, s.load (some bytes) = t ∧ t.ResetElements ∧ t.progLen = bytes.length ∧ t.gameLoaded = true ∧
      t.runState = .running ∧ t.loadOk = true ∧ t.cfg = s.cfg ∧
      (∀ (k : Nat) (h : k < bytes.length), t.peek (0x200 + k) = bytes[k]) ∧
      (∀ (k : Nat) (h : k < 80), t.peek k = s.cfg.font[k]) ∧
      ∀ a, 80 ≤ a → (a < 0x200 ∨ 0x200 + bytes.length ≤ a) → t.peek a = 0

/-- 70_reset_and_hazards.md R242, R243: a LOAD of an unreadable, empty or too long image resets everything, copies no byte and
leaves the machine not loaded, so that STEP has no move. -/
def Obligations.FailedLoadIsNotRunnable : Prop :=
  ∀ (s : State) (image : Option (List Byte)),
    (∀ bytes, image = some bytes → bytes.length = 0 ∨ 3584 < bytes.length) →
    ∃ t, s.load image = t ∧ t.ResetElements ∧ t.progLen = 0 ∧ t.gameLoaded = false ∧ t.runState = .notLoaded ∧
      t.loadOk = false ∧ (∀ u, step t ≠ .next u) ∧ (∀ (k : Nat) (h : k < 80), t.peek k = s.cfg.font[k]) ∧
      ∀ a, 80 ≤ a → t.peek a = 0

/-- The model's reset state (log entry 2, a DESIGN CHOICE of the model) is the state a failed LOAD leaves, but for the inputs drawn
for the next step; it has the reset values of 10_state.md R48. -/
def Obligations.ResetIsAFailedLoad : Prop :=
  State.reset.ResetElements ∧
  ∀ image, (∀ bytes, image = some bytes → bytes.length = 0 ∨ 3584 < bytes.length) →
    State.reset.load image =
      { State.reset with draws := (State.reset.load image).draws, drawCount := (State.reset.load image).drawCount }

/-! ## Invariants -/

/-- The invariant holds at reset. -/
def Obligations.ResetMeetsTheInvariant : Prop := State.reset.Inv

/-- Every step keeps the invariant: canonical memory inside 0x000 to 0xFFF (20_memory.md R60), at most 16 stack entries
(10_state.md R33), prog_len at most 3584 (R43), game_loaded agreeing with run_state (R45), inactive cells 0 in low-res
(43_display.md R171). -/
def Obligations.StepKeepsTheInvariant : Prop := ∀ s t : State, s.Inv → step s = .next t → t.Inv

/-- Every host command keeps the invariant, and a LOAD establishes it from any state. -/
def Obligations.CommandsKeepTheInvariant : Prop :=
  (∀ (c : Command) (s t : State), s.Inv → s.command c = .next t → t.Inv) ∧
  ∀ (image : Option (List Byte)) (s : State), (s.load image).Inv

/-! ## Whole-machine frames -/

/-- 10_state.md R26: an instruction writes only the register it names as its destination, and VF only the flag-writing
instructions and DXYN besides. -/
def Obligations.RegistersAreWrittenOnlyAsNamed : Prop :=
  ∀ (i : Instr) (s t : State), exec i s = .next t → ∀ r, ¬ i.writesReg r → t.reg r = s.reg r

/-- 20_memory.md R68: only FX33 and FX55 write memory, and only the bytes M[I..I+2] and M[I..I+X]. -/
def Obligations.MemoryIsWrittenOnlyByStores : Prop :=
  ∀ (i : Instr) (s t : State), exec i s = .next t → KeepsMemory s t s.i.toNat i.storedBytes

/-- 10_state.md R28, R34, R37, R38, R42 to R45: which instructions write I, the stack, the timers and the framebuffer; none
writes the mode flag, the program metadata, the run state or the parameters. -/
def Obligations.EachElementHasItsWriters : Prop :=
  ∀ (i : Instr) (s t : State), exec i s = .next t →
    (t.i ≠ s.i → (∃ nnn, i = .ldI nnn) ∨ ∃ x, i = .addI x ∨ i = .ldF x ∨ i = .ldMemVx x ∨ i = .ldVxMem x) ∧
    (t.stack ≠ s.stack → i = .ret ∨ ∃ nnn, i = .call nnn) ∧
    (t.dt ≠ s.dt → ∃ x, i = .ldDtVx x) ∧
    (t.st ≠ s.st → ∃ x, i = .ldStVx x) ∧
    (t.fb ≠ s.fb → i = .cls ∨ ∃ x y n, i = .drw x y n) ∧
    t.hires = s.hires ∧ t.progLen = s.progLen ∧ t.gameLoaded = s.gameLoaded ∧ t.runState = s.runState ∧
    t.beep = s.beep ∧ t.draws = s.draws ∧ t.drawCount = s.drawCount ∧ t.cfg = s.cfg

/-- 10_state.md R22, R23: only EX9E, EXA1 and FX0A read the key sample, and only CXNN the random byte: with another sample
any other instruction does the same. -/
def Obligations.InputsAreReadOnlyByTheirInstructions : Prop :=
  ∀ (i : Instr) (s : State) (k : BitVec 16) (b : Byte),
    ((∀ x, i ≠ .skp x ∧ i ≠ .sknp x ∧ i ≠ .ldVxK x) → ∀ t, exec i s = .next t →
      exec i { s with draws := { s.draws with keyDown := k } } =
        .next { t with draws := { t.draws with keyDown := k } }) ∧
    ((∀ x nn, i ≠ .rnd x nn) → ∀ t, exec i s = .next t →
      exec i { s with draws := { s.draws with randByte := b } } =
        .next { t with draws := { t.draws with randByte := b } })

/-- 20_memory.md R73: bytes stored by FX55 are fetched as the next instruction word, with no other action. -/
def Obligations.StoredBytesAreFetched : Prop :=
  ∀ (x : RegIdx) (s t u : State), 1 ≤ x.val → exec (.ldMemVx x) s = .next t → u.mem = t.mem → u.cfg = t.cfg →
    u.pc = s.i → ∃ w, u.fetch = .ok w ∧ w.toNat = (s.reg 0).toNat * 256 + (s.reg 1).toNat

/-! ## Control flow -/

/-- 40_flow.md R101, R107: JP and JP V0 set PC to the target less 2, so that the uniform advance lands on NNN and on NNN + V0
mod 2^16; nothing else changes. -/
def Obligations.JumpsReachTheirTargets : Prop :=
  ∀ (nnn : Word) (s : State),
    (∃ t, exec (.jp nnn) s = .next t ∧ t.pc + 2 = nnn ∧ t = { s with pc := t.pc }) ∧
    (∃ t, exec (.jpV0 nnn) s = .next t ∧ (t.pc + 2).toNat = (nnn.toNat + (s.reg 0).toNat) % 0x10000 ∧
      t = { s with pc := t.pc })

/-- 40_flow.md R102: CALL with fewer than 16 entries pushes its own address and jumps; with 16 it raises StackOverflow with
that address. -/
def Obligations.CallPushesItsOwnAddress : Prop :=
  ∀ (nnn : Word) (s : State),
    (s.stack.length < 16 → ∃ t, exec (.call nnn) s = .next t ∧ t.stack = s.stack ++ [s.pc] ∧ t.pc + 2 = nnn ∧
      t = { s with stack := t.stack, pc := t.pc }) ∧
    (16 ≤ s.stack.length → exec (.call nnn) s = .fault (.stackOverflow s.pc))

/-- 40_flow.md R100: RET pops the newest entry into PC; on an empty stack it raises StackUnderflow. -/
def Obligations.RetPopsTheNewestEntry : Prop :=
  ∀ (s : State) (rest : List Word) (a : Word),
    (s.stack = rest ++ [a] → ∃ t, exec .ret s = .next t ∧ t.pc = a ∧ t.stack = rest ∧
      t = { s with stack := t.stack, pc := t.pc }) ∧
    (s.stack = [] → exec .ret s = .fault .stackUnderflow)

/-- 40_flow.md R100, R102: a RET that finds the stack as a CALL left it resumes, after its uniform advance, at the instruction
after the CALL, with the stack as before the CALL. -/
def Obligations.RetResumesAfterItsCall : Prop :=
  ∀ (nnn : Word) (s u r : State), exec (.call nnn) s = .next u → r.stack = u.stack →
    ∃ t, exec .ret r = .next t ∧ t.pc + 2 = s.pc + 2 ∧ t.stack = s.stack

/-- 40_flow.md R103 to R106: the register skips add 2 to PC exactly when their condition holds; nothing else changes. -/
def Obligations.RegisterSkipsFollowTheirCondition : Prop :=
  ∀ (x y : RegIdx) (nn : Byte) (s : State),
    (∃ t, exec (.seImm x nn) s = .next t ∧ t = { s with pc := t.pc } ∧
      (s.reg x = nn → t.pc = s.pc + 2) ∧ (s.reg x ≠ nn → t.pc = s.pc)) ∧
    (∃ t, exec (.sneImm x nn) s = .next t ∧ t = { s with pc := t.pc } ∧
      (s.reg x ≠ nn → t.pc = s.pc + 2) ∧ (s.reg x = nn → t.pc = s.pc)) ∧
    (∃ t, exec (.seReg x y) s = .next t ∧ t = { s with pc := t.pc } ∧
      (s.reg x = s.reg y → t.pc = s.pc + 2) ∧ (s.reg x ≠ s.reg y → t.pc = s.pc)) ∧
    (∃ t, exec (.sneReg x y) s = .next t ∧ t = { s with pc := t.pc } ∧
      (s.reg x ≠ s.reg y → t.pc = s.pc + 2) ∧ (s.reg x = s.reg y → t.pc = s.pc))

/-! ## Loads and arithmetic -/

/-- 41_alu.md R123 to R128: the loads, the flagless addition and the logical operations write their result to VX and nothing
else; VF too is unchanged unless it is VX. -/
def Obligations.LoadsAndLogicWriteOnlyTheirRegister : Prop :=
  ∀ (x y : RegIdx) (nn : Byte) (s : State),
    (∃ t, exec (.ldImm x nn) s = .next t ∧ t = { s with v := t.v } ∧ KeepsRegs s t [x] ∧ t.reg x = nn) ∧
    (∃ t, exec (.addImm x nn) s = .next t ∧ t = { s with v := t.v } ∧ KeepsRegs s t [x] ∧
      (t.reg x).toNat = ((s.reg x).toNat + nn.toNat) % 256) ∧
    (∃ t, exec (.ldReg x y) s = .next t ∧ t = { s with v := t.v } ∧ KeepsRegs s t [x] ∧ t.reg x = s.reg y) ∧
    (∃ t, exec (.orReg x y) s = .next t ∧ t = { s with v := t.v } ∧ KeepsRegs s t [x] ∧
      ∀ k, (t.reg x).getLsbD k = ((s.reg x).getLsbD k || (s.reg y).getLsbD k)) ∧
    (∃ t, exec (.andReg x y) s = .next t ∧ t = { s with v := t.v } ∧ KeepsRegs s t [x] ∧
      ∀ k, (t.reg x).getLsbD k = ((s.reg x).getLsbD k && (s.reg y).getLsbD k)) ∧
    (∃ t, exec (.xorReg x y) s = .next t ∧ t = { s with v := t.v } ∧ KeepsRegs s t [x] ∧
      ∀ k, (t.reg x).getLsbD k = ((s.reg x).getLsbD k != (s.reg y).getLsbD k))

/-- 41_alu.md R120, R121, R129, R130: addition and subtraction mod 256 with their flags from the operands read before any
write; the flag wins when VX is VF. -/
def Obligations.AddAndSubSetVF : Prop :=
  ∀ (x y : RegIdx) (s : State), s.cfg.vfCorner = .latched ∨ (x ≠ 15 ∧ y ≠ 15) →
    (∃ t, exec (.addReg x y) s = .next t ∧ t = { s with v := t.v } ∧ KeepsRegs s t [x, 15] ∧
      (x ≠ 15 → (t.reg x).toNat = ((s.reg x).toNat + (s.reg y).toNat) % 256) ∧
      (t.reg 15).toNat = if 255 < (s.reg x).toNat + (s.reg y).toNat then 1 else 0) ∧
    (∃ t, exec (.sub x y) s = .next t ∧ t = { s with v := t.v } ∧ KeepsRegs s t [x, 15] ∧
      (x ≠ 15 → (t.reg x).toNat = (256 + (s.reg x).toNat - (s.reg y).toNat) % 256) ∧
      (t.reg 15).toNat = if (s.reg x).toNat < (s.reg y).toNat then 0 else 1)

/-- 41_alu.md R131, R133: the shifts by one with their flags: SHR's low nibble (literal) or low bit (historical), SHL's bit 7;
Y is never read for the result. -/
def Obligations.ShiftsSetVF : Prop :=
  ∀ (x y : RegIdx) (s : State), s.cfg.vfCorner = .latched ∨ (x ≠ 15 ∧ y ≠ 15) →
    (∃ t, exec (.shr x y) s = .next t ∧ t = { s with v := t.v } ∧ KeepsRegs s t [x, 15] ∧
      (x ≠ 15 → (t.reg x).toNat = (s.reg x).toNat / 2) ∧
      (s.cfg.aluVariant = .literal → (t.reg 15).toNat = (s.reg x).toNat % 16) ∧
      (s.cfg.aluVariant = .historical → (t.reg 15).toNat = (s.reg x).toNat % 2)) ∧
    (∃ t, exec (.shl x y) s = .next t ∧ t = { s with v := t.v } ∧ KeepsRegs s t [x, 15] ∧
      (x ≠ 15 → (t.reg x).toNat = 2 * (s.reg x).toNat % 256) ∧
      (t.reg 15).toNat = (s.reg x).toNat / 128)

/-- 41_alu.md R132: SUBN's value is VX − VY (literal) or VY − VX (historical), its flag NOT borrow of VY − VX under both. -/
def Obligations.SubnFollowsItsVariant : Prop :=
  ∀ (x y : RegIdx) (s : State), s.cfg.vfCorner = .latched ∨ (x ≠ 15 ∧ y ≠ 15) →
    ∃ t, exec (.subn x y) s = .next t ∧ t = { s with v := t.v } ∧ KeepsRegs s t [x, 15] ∧
      (x ≠ 15 → s.cfg.aluVariant = .literal →
        (t.reg x).toNat = (256 + (s.reg x).toNat - (s.reg y).toNat) % 256) ∧
      (x ≠ 15 → s.cfg.aluVariant = .historical →
        (t.reg x).toNat = (256 + (s.reg y).toNat - (s.reg x).toNat) % 256) ∧
      (t.reg 15).toNat = if (s.reg y).toNat < (s.reg x).toNat then 0 else 1

/-- 41_alu.md R122: under `havoc` with VF as an operand the five flag-writing instructions complete, write only V[X] and VF, and
leave there any two bytes, according to the step's free values. -/
def Obligations.HavocLeavesResultAndFlagFree : Prop :=
  ∀ (x y : RegIdx) (s : State) (i : Instr), s.cfg.vfCorner = .havoc → x = 15 ∨ y = 15 →
    (i = .addReg x y ∨ i = .sub x y ∨ i = .shr x y ∨ i = .subn x y ∨ i = .shl x y) →
    (∃ t, exec i s = .next t ∧ t = { s with v := t.v } ∧ KeepsRegs s t [x, 15]) ∧
    ∀ a f : Byte, ∃ (d : Draws) (t : State), exec i { s with draws := d } = .next t ∧ t.reg 15 = f ∧
      (x ≠ 15 → t.reg x = a)

/-- 41_alu.md R134: RND writes the random byte masked by NN to VX and nothing else, and every value inside the mask is the
result for some random byte. -/
def Obligations.RandomByteIsMasked : Prop :=
  ∀ (x : RegIdx) (nn : Byte) (s : State),
    (∃ t, exec (.rnd x nn) s = .next t ∧ t = { s with v := t.v } ∧ KeepsRegs s t [x] ∧
      t.reg x = s.draws.randByte &&& nn) ∧
    ∀ b : Byte, b &&& ~~~nn = 0 → ∃ (d : Draws) (t : State), exec (.rnd x nn) { s with draws := d } = .next t ∧ t.reg x = b

/-! ## Index register and memory -/

/-- 42_index_memory.md R150 to R152: the three writes of I, with no 12-bit mask and no flag. -/
def Obligations.IndexInstructionsWriteI : Prop :=
  ∀ (nnn : Word) (x : RegIdx) (s : State),
    (∃ t, exec (.ldI nnn) s = .next t ∧ t.i = nnn ∧ t = { s with i := t.i }) ∧
    (∃ t, exec (.addI x) s = .next t ∧ t.i.toNat = (s.i.toNat + (s.reg x).toNat) % 0x10000 ∧ t = { s with i := t.i }) ∧
    (∃ t, exec (.ldF x) s = .next t ∧ t.i.toNat = (s.reg x).toNat * 5 ∧ t = { s with i := t.i })

/-- 42_index_memory.md R153: the decimal digits of VX at I, I + 1, I + 2, every other byte and element unchanged; out of range
the MemoryBounds fault at max(I, 0x1000). That the hundreds come first is the spec's own general knowledge (log entry 14). -/
def Obligations.BcdStoresThreeDigits : Prop :=
  ∀ (x : RegIdx) (s : State),
    (s.i.toNat + 2 < 0x1000 → ∃ t, exec (.ldB x) s = .next t ∧ t = { s with mem := t.mem } ∧
      (t.peek s.i.toNat).toNat = (s.reg x).toNat / 100 ∧
      (t.peek (s.i.toNat + 1)).toNat = (s.reg x).toNat / 10 % 10 ∧
      (t.peek (s.i.toNat + 2)).toNat = (s.reg x).toNat % 10 ∧ KeepsMemory s t s.i.toNat 3) ∧
    (0x1000 ≤ s.i.toNat + 2 → exec (.ldB x) s = .fault (.memoryBounds (BitVec.ofNat 16 (max s.i.toNat 0x1000))))

/-- 42_index_memory.md R154: V0 to VX stored at I up, I advanced by X + 1, every other byte and element unchanged; out of range
the MemoryBounds fault at max(I, 0x1000). -/
def Obligations.RegistersAreStoredFromI : Prop :=
  ∀ (x : RegIdx) (s : State),
    (s.i.toNat + x.val < 0x1000 → ∃ t, exec (.ldMemVx x) s = .next t ∧ t = { s with mem := t.mem, i := t.i } ∧
      t.i.toNat = (s.i.toNat + x.val + 1) % 0x10000 ∧ (∀ k : RegIdx, k ≤ x → t.peek (s.i.toNat + k.val) = s.reg k) ∧
      KeepsMemory s t s.i.toNat (x.val + 1)) ∧
    (0x1000 ≤ s.i.toNat + x.val →
      exec (.ldMemVx x) s = .fault (.memoryBounds (BitVec.ofNat 16 (max s.i.toNat 0x1000))))

/-- 42_index_memory.md R155: V0 to VX loaded from I up, I advanced by X + 1, the registers above X, memory and every other
element unchanged; out of range the MemoryBounds fault at max(I, 0x1000). -/
def Obligations.RegistersAreLoadedFromI : Prop :=
  ∀ (x : RegIdx) (s : State),
    (s.i.toNat + x.val < 0x1000 → ∃ t, exec (.ldVxMem x) s = .next t ∧ t = { s with v := t.v, i := t.i } ∧
      t.i.toNat = (s.i.toNat + x.val + 1) % 0x10000 ∧ (∀ k : RegIdx, k ≤ x → t.reg k = s.peek (s.i.toNat + k.val)) ∧
      (∀ k : RegIdx, x < k → t.reg k = s.reg k) ∧ ∀ a, t.peek a = s.peek a) ∧
    (0x1000 ≤ s.i.toNat + x.val →
      exec (.ldVxMem x) s = .fault (.memoryBounds (BitVec.ofNat 16 (max s.i.toNat 0x1000))))

/-- 42_index_memory.md R154, R155: FX65 with I set back to where an FX55 stored brings every stored register back. -/
def Obligations.LoadAfterStoreRestoresRegisters : Prop :=
  ∀ (x : RegIdx) (s u r : State), exec (.ldMemVx x) s = .next u → r.mem = u.mem → r.cfg = u.cfg → r.i = s.i →
    ∃ t, exec (.ldVxMem x) r = .next t ∧ ∀ k : RegIdx, k ≤ x → t.reg k = s.reg k

/-! ## Display -/

/-- 43_display.md R171: CLS sets every one of the 4096 cells to 0 and requests a draw; VF and everything else are unchanged. -/
def Obligations.ClsClearsEveryCell : Prop :=
  ∀ s : State, ∃ t, exec .cls s = .next t ∧ (∀ c, FrameBuf.cell t.fb c = false) ∧ t.drawRequest = true ∧
    t = { s with fb := t.fb, drawRequest := true }

/-- 43_display.md R172: DRW toggles exactly the cells its sprite lights, sets VF to 1 exactly when such a cell was set, and
changes nothing else; a sprite byte at 0x1000 or above is the MemoryBounds fault. -/
def Obligations.DrawTogglesTheSpriteCells : Prop :=
  ∀ (x y : RegIdx) (n : Nat) (s : State), n < 16 →
    (n = 0 ∨ s.i.toNat + n - 1 < 0x1000 → s.cfg.vfCorner = .latched ∨ (x ≠ 15 ∧ y ≠ 15) →
      ∃ t, exec (.drw x y n) s = .next t ∧ t = { s with v := t.v, fb := t.fb, drawRequest := true } ∧
        KeepsRegs s t [15] ∧ (∀ a, t.peek a = s.peek a) ∧
        (∀ c, FrameBuf.cell t.fb c ≠ FrameBuf.cell s.fb c ↔ s.SpriteLights x y n c) ∧
        (t.reg 15 = 0 ∨ t.reg 15 = 1) ∧
        (t.reg 15 = 1 ↔ ∃ c, s.SpriteLights x y n c ∧ FrameBuf.cell s.fb c = true)) ∧
    (0 < n → 0x1000 ≤ s.i.toNat + n - 1 →
      exec (.drw x y n) s = .fault (.memoryBounds (BitVec.ofNat 16 (max s.i.toNat 0x1000))))

/-- 43_display.md R173: under `havoc` with VF as a coordinate, DRW completes where it would under `latched`, leaves the inactive
cells, memory and every register but VF unchanged, and leaves any active cells and any VF in {0, 1}, by the free values. -/
def Obligations.HavocDrawLeavesCellsFree : Prop :=
  ∀ (x y : RegIdx) (n : Nat) (s : State), s.cfg.vfCorner = .havoc → x = 15 ∨ y = 15 →
    n = 0 ∨ s.i.toNat + n - 1 < 0x1000 →
    (∃ t, exec (.drw x y n) s = .next t ∧ t = { s with v := t.v, fb := t.fb, drawRequest := true } ∧
      KeepsRegs s t [15] ∧ (∀ a, t.peek a = s.peek a) ∧ (t.reg 15 = 0 ∨ t.reg 15 = 1) ∧
      (s.hires = false → ∀ c, 2048 ≤ c → FrameBuf.cell t.fb c = FrameBuf.cell s.fb c)) ∧
    ∀ (f : FrameBuf) (hit : Bool), ∃ (d : Draws) (t : State), exec (.drw x y n) { s with draws := d } = .next t ∧
      (∀ c, c < (if s.hires then 4096 else 2048) → FrameBuf.cell t.fb c = FrameBuf.cell f c) ∧
      t.reg 15 = if hit then 1 else 0

/-- 43_display.md R172 and its example: drawing the same sprite at the same place twice restores the framebuffer; when the
first draw reports no collision and the sprite lights a cell, the second reports VF = 1. -/
def Obligations.DrawingTwiceRestoresTheFramebuffer : Prop :=
  ∀ (x y : RegIdx) (n : Nat) (s u t : State), n < 16 → x ≠ 15 → y ≠ 15 →
    exec (.drw x y n) s = .next u → exec (.drw x y n) u = .next t →
    t.fb = s.fb ∧ (u.reg 15 = 0 → (∃ c, s.SpriteLights x y n c) → t.reg 15 = 1)

/-- 43_display.md R174: RENDER gives three equal bytes per active cell, 255 for a set cell and 0 otherwise, row-major, with the
active resolution, and changes no state. That this holds before the first LOAD too, where R174 leaves the bytes unspecified, is
the model's DESIGN CHOICE (log entry 15). -/
def Obligations.RenderExpandsActiveCells : Prop :=
  ∀ s : State, s.command .render = .next s ∧
    s.resOut = (if s.hires then (64, 64) else (64, 32)) ∧
    s.render.length = (if s.hires then 12288 else 6144) ∧
    ∀ c p, c < (if s.hires then 4096 else 2048) → p < 3 →
      s.render[c * 3 + p]? = some (if FrameBuf.cell s.fb c then 255 else 0)

/-- 60_exceptions.md R225: a step that runs an instruction has a trace record, of the word actually executed (0x12C0 for the
sentinel), its family and its operand fields. -/
def Obligations.TraceHoldsTheExecutedWord : Prop :=
  ∀ (s : State) (w : Word) (i : Instr), s.Runs w i → ∃ r, s.trace = some r ∧
    r.opcode = (if s.pc = 0x200 ∧ w = 0x1260 then 0x12C0 else w) ∧ r.family = r.opcode.toNat / 0x1000 ∧
    r.x.val = r.opcode.toNat / 0x100 % 16 ∧ r.y.val = r.opcode.toNat / 0x10 % 16 ∧ r.n = r.opcode.toNat % 16 ∧
    r.nn.toNat = r.opcode.toNat % 256 ∧ r.nnn.toNat = r.opcode.toNat % 0x1000

/-! ## Keys and timers -/

/-- 44_timers_keys.md R190, R191: the key skips add 2 to PC by the level of key VX; with VX above 15 they raise
KeyIndexRange. -/
def Obligations.KeySkipsFollowTheSample : Prop :=
  ∀ (x : RegIdx) (s : State),
    ((s.reg x).toNat ≤ 15 →
      (∃ t, exec (.skp x) s = .next t ∧ t = { s with pc := t.pc } ∧
        t.pc = if s.draws.keyDown.getLsbD (s.reg x).toNat then s.pc + 2 else s.pc) ∧
      (∃ t, exec (.sknp x) s = .next t ∧ t = { s with pc := t.pc } ∧
        t.pc = if s.draws.keyDown.getLsbD (s.reg x).toNat then s.pc else s.pc + 2)) ∧
    (15 < (s.reg x).toNat →
      exec (.skp x) s = .fault (.keyIndexRange (BitVec.ofNat 16 (s.reg x).toNat)) ∧
      exec (.sknp x) s = .fault (.keyIndexRange (BitVec.ofNat 16 (s.reg x).toNat)))

/-- 44_timers_keys.md R193: with no key down FX0A takes 2 from PC, so that the step ends where it began; otherwise it writes to
VX the index of some key that is down, and every key that is down is written for some free value. -/
def Obligations.KeyWaitRearmsOrStoresAKey : Prop :=
  ∀ (x : RegIdx) (s : State),
    ((∀ k : RegIdx, s.draws.keyDown.getLsbD k = false) →
      ∃ t, exec (.ldVxK x) s = .next t ∧ t.pc + 2 = s.pc ∧ t = { s with pc := t.pc }) ∧
    (∀ j : RegIdx, s.draws.keyDown.getLsbD j = true →
      (∃ t, exec (.ldVxK x) s = .next t ∧ t = { s with v := t.v } ∧ KeepsRegs s t [x] ∧
        ∃ k : RegIdx, s.draws.keyDown.getLsbD k = true ∧ (t.reg x).toNat = k.val) ∧
      ∃ (p : Nat) (t : State), exec (.ldVxK x) { s with draws := { s.draws with keyPick := p } } = .next t ∧
        (t.reg x).toNat = j.val)

/-- 44_timers_keys.md R192, R194, R195: the timer transfers, each changing its destination alone. -/
def Obligations.TimerTransfersWriteTheirTarget : Prop :=
  ∀ (x : RegIdx) (s : State),
    (∃ t, exec (.ldVxDt x) s = .next t ∧ t = { s with v := t.v } ∧ KeepsRegs s t [x] ∧ t.reg x = s.dt) ∧
    (∃ t, exec (.ldDtVx x) s = .next t ∧ t = { s with dt := s.reg x }) ∧
    (∃ t, exec (.ldStVx x) s = .next t ∧ t = { s with st := s.reg x })

/-- 70_reset_and_hazards.md R248: a timer written by FX15 or FX18 is decremented by the countdown of the same step, so the next
FX07 reads n − 1, and ST ← 1 beeps in the writing step itself. -/
def Obligations.WrittenTimerCountsDownInItsStep : Prop :=
  ∀ (x : RegIdx) (s : State) (w : Word),
    (s.Runs w (.ldDtVx x) → ∃ t, step s = .next t ∧ t.dt.toNat = (s.reg x).toNat - 1 ∧
      ∀ (r : State) (z : RegIdx), r.dt = t.dt → ∃ q, exec (.ldVxDt z) r = .next q ∧
        (q.reg z).toNat = (s.reg x).toNat - 1) ∧
    (s.Runs w (.ldStVx x) → ∃ t, step s = .next t ∧ t.st.toNat = (s.reg x).toNat - 1 ∧
      (t.beep = true ↔ s.reg x = 1))

/-- 70_reset_and_hazards.md R249: a step that waits in FX0A with no key down leaves PC where it was and counts both timers
down. -/
def Obligations.WaitingStepCountsTimersDown : Prop :=
  ∀ (x : RegIdx) (s : State) (w : Word), s.Runs w (.ldVxK x) → (∀ k : RegIdx, s.draws.keyDown.getLsbD k = false) →
    ∃ t, step s = .next t ∧ t.pc = s.pc ∧ t.dt.toNat = s.dt.toNat - 1 ∧ t.st.toNat = s.st.toNat - 1 ∧
      (∀ r, t.reg r = s.reg r) ∧ t.runState = .running
end

