-- ==== Sys2Proof/Laws/Decode.lean ====
section
/-! SUPPORT. Encoding and decoding: the fields of encoded words, and the masks of the opcode rows as arithmetic. -/

namespace Sys2Proof

/-! ## Words of a pattern -/

theorem wordNNN_toNat {f : Nat} {nnn : Word} (hf : f < 16) (h : nnn.toNat < 0x1000) :
    (wordNNN f nnn).toNat = f * 0x1000 + nnn.toNat := by
  simp [wordNNN]; omega

theorem wordXNN_toNat {f : Nat} (x : RegIdx) (nn : Byte) (hf : f < 16) :
    (wordXNN f x nn).toNat = f * 0x1000 + x.val * 0x100 + nn.toNat := by
  have := x.isLt
  have := nn.isLt
  simp [wordXNN]; omega

theorem nibbles_toNat {f x y n : Nat} (hf : f < 16) (hx : x < 16) (hy : y < 16) (hn : n < 16) :
    (nibbles f x y n).toNat = f * 0x1000 + x * 0x100 + y * 0x10 + n := by
  simp [nibbles]; omega

@[simp] theorem fieldF_lt (w : Word) : fieldF w < 16 := by
  have := w.isLt
  unfold fieldF; omega

@[simp] theorem fieldN_lt (w : Word) : fieldN w < 16 := Nat.mod_lt _ (by decide)

theorem fieldX_val (w : Word) : (fieldX w).val = w.toNat / 0x100 % 16 := rfl

theorem fieldY_val (w : Word) : (fieldY w).val = w.toNat / 0x10 % 16 := rfl

theorem fieldNN_toNat (w : Word) : (fieldNN w).toNat = w.toNat % 0x100 := by simp [fieldNN]

theorem fieldNNN_toNat (w : Word) : (fieldNNN w).toNat = w.toNat % 0x1000 := by
  simp [fieldNNN]; omega

theorem fieldF_wordNNN {f : Nat} {nnn : Word} (hf : f < 16) (h : nnn.toNat < 0x1000) : fieldF (wordNNN f nnn) = f := by
  rw [fieldF, wordNNN_toNat hf h]; omega

theorem fieldNNN_wordNNN {f : Nat} {nnn : Word} (hf : f < 16) (h : nnn.toNat < 0x1000) :
    fieldNNN (wordNNN f nnn) = nnn := by
  apply BitVec.eq_of_toNat_eq
  rw [fieldNNN_toNat, wordNNN_toNat hf h]; omega

theorem fieldF_wordXNN {f : Nat} (x : RegIdx) (nn : Byte) (hf : f < 16) : fieldF (wordXNN f x nn) = f := by
  have := x.isLt
  have := nn.isLt
  rw [fieldF, wordXNN_toNat x nn hf]; omega

theorem fieldX_wordXNN {f : Nat} (x : RegIdx) (nn : Byte) (hf : f < 16) : fieldX (wordXNN f x nn) = x := by
  have := x.isLt
  have := nn.isLt
  apply Fin.ext
  rw [fieldX_val, wordXNN_toNat x nn hf]; omega

theorem fieldNN_wordXNN {f : Nat} (x : RegIdx) (nn : Byte) (hf : f < 16) : fieldNN (wordXNN f x nn) = nn := by
  have := x.isLt
  have := nn.isLt
  apply BitVec.eq_of_toNat_eq
  rw [fieldNN_toNat, wordXNN_toNat x nn hf]; omega

theorem fieldF_nibbles {f n : Nat} (x y : RegIdx) (hf : f < 16) (hn : n < 16) : fieldF (nibbles f x y n) = f := by
  have := x.isLt
  have := y.isLt
  rw [fieldF, nibbles_toNat hf x.isLt y.isLt hn]; omega

theorem fieldX_nibbles {f n : Nat} (x y : RegIdx) (hf : f < 16) (hn : n < 16) : fieldX (nibbles f x y n) = x := by
  have := x.isLt
  have := y.isLt
  apply Fin.ext
  rw [fieldX_val, nibbles_toNat hf x.isLt y.isLt hn]; omega

theorem fieldY_nibbles {f n : Nat} (x y : RegIdx) (hf : f < 16) (hn : n < 16) : fieldY (nibbles f x y n) = y := by
  have := x.isLt
  have := y.isLt
  apply Fin.ext
  rw [fieldY_val, nibbles_toNat hf x.isLt y.isLt hn]; omega

theorem fieldN_nibbles {f n : Nat} (x y : RegIdx) (hf : f < 16) (hn : n < 16) : fieldN (nibbles f x y n) = n := by
  have := x.isLt
  have := y.isLt
  rw [fieldN, nibbles_toNat hf x.isLt y.isLt hn]; omega

/-! ## Words as bytes -/

@[simp] theorem bigEndian_bytes (w : Word) : bigEndian (hiByte w) (loByte w) = w := by
  have := w.isLt
  apply BitVec.eq_of_toNat_eq
  simp [bigEndian, hiByte, loByte]; omega

theorem bigEndian_toNat (hi lo : Byte) : (bigEndian hi lo).toNat = hi.toNat * 0x100 + lo.toNat := by
  have := hi.isLt
  have := lo.isLt
  simp [bigEndian]; omega

@[simp] theorem hiByte_bigEndian (hi lo : Byte) : hiByte (bigEndian hi lo) = hi := by
  have := hi.isLt
  have := lo.isLt
  apply BitVec.eq_of_toNat_eq
  simp only [hiByte, bigEndian_toNat, BitVec.toNat_ofNat]; omega

@[simp] theorem loByte_bigEndian (hi lo : Byte) : loByte (bigEndian hi lo) = lo := by
  have := hi.isLt
  have := lo.isLt
  apply BitVec.eq_of_toNat_eq
  simp only [loByte, bigEndian_toNat, BitVec.toNat_ofNat]; omega

/-! ## The masks of the opcode rows -/

theorem and_F000_toNat (w : Word) : (w &&& 0xF000).toNat = w.toNat / 0x1000 * 0x1000 := by
  have e : w &&& (0xF000 : Word) = (w >>> 12) <<< 12 := by
    apply BitVec.eq_of_getLsbD_eq
    intro i hi
    interval_cases i <;> simp
  have := w.isLt
  rw [e]
  simp [Nat.shiftRight_eq_div_pow, Nat.shiftLeft_eq]; omega

theorem and_000F_toNat (w : Word) : (w &&& 0x000F).toNat = w.toNat % 0x10 := by
  rw [BitVec.toNat_and]
  exact Nat.and_two_pow_sub_one_eq_mod w.toNat 4

theorem and_00FF_toNat (w : Word) : (w &&& 0x00FF).toNat = w.toNat % 0x100 := by
  rw [BitVec.toNat_and]
  exact Nat.and_two_pow_sub_one_eq_mod w.toNat 8

theorem and_F00F_toNat (w : Word) : (w &&& 0xF00F).toNat = w.toNat / 0x1000 * 0x1000 + w.toNat % 0x10 := by
  have e : w &&& 0xF00F = (w &&& 0xF000) + (w &&& 0x000F) := by
    rw [BitVec.add_eq_or_of_and_eq_zero]
    · apply BitVec.eq_of_getLsbD_eq
      intro i hi
      interval_cases i <;> simp
    · apply BitVec.eq_of_getLsbD_eq
      intro i hi
      interval_cases i <;> simp
  have := w.isLt
  rw [e, BitVec.toNat_add, and_F000_toNat, and_000F_toNat]; omega

theorem and_F0FF_toNat (w : Word) : (w &&& 0xF0FF).toNat = w.toNat / 0x1000 * 0x1000 + w.toNat % 0x100 := by
  have e : w &&& 0xF0FF = (w &&& 0xF000) + (w &&& 0x00FF) := by
    rw [BitVec.add_eq_or_of_and_eq_zero]
    · apply BitVec.eq_of_getLsbD_eq
      intro i hi
      interval_cases i <;> simp
    · apply BitVec.eq_of_getLsbD_eq
      intro i hi
      interval_cases i <;> simp
  have := w.isLt
  rw [e, BitVec.toNat_add, and_F000_toNat, and_00FF_toNat]; omega

theorem and_FFFF_toNat (w : Word) : (w &&& 0xFFFF).toNat = w.toNat := by
  have := w.isLt
  rw [BitVec.toNat_and]
  exact (Nat.and_two_pow_sub_one_eq_mod w.toNat 16).trans (Nat.mod_eq_of_lt this)

end Sys2Proof
end

