-- ==== Sys2Proof/Laws/State.lean ====
section
/-! SUPPORT. One lemma per field per update of State, so that no proof unfolds a record update. -/

namespace Sys2Proof.Machine

/-! ## setReg -/

@[simp] theorem State.setReg_v (s : State) (x : RegIdx) (b : Byte) : (s.setReg x b).v = s.v.set x b := rfl
@[simp] theorem State.setReg_i (s : State) (x : RegIdx) (b : Byte) : (s.setReg x b).i = s.i := rfl
@[simp] theorem State.setReg_pc (s : State) (x : RegIdx) (b : Byte) : (s.setReg x b).pc = s.pc := rfl
@[simp] theorem State.setReg_stack (s : State) (x : RegIdx) (b : Byte) : (s.setReg x b).stack = s.stack := rfl
@[simp] theorem State.setReg_dt (s : State) (x : RegIdx) (b : Byte) : (s.setReg x b).dt = s.dt := rfl
@[simp] theorem State.setReg_st (s : State) (x : RegIdx) (b : Byte) : (s.setReg x b).st = s.st := rfl
@[simp] theorem State.setReg_fb (s : State) (x : RegIdx) (b : Byte) : (s.setReg x b).fb = s.fb := rfl
@[simp] theorem State.setReg_hires (s : State) (x : RegIdx) (b : Byte) : (s.setReg x b).hires = s.hires := rfl
@[simp] theorem State.setReg_mem (s : State) (x : RegIdx) (b : Byte) : (s.setReg x b).mem = s.mem := rfl
@[simp] theorem State.setReg_progLen (s : State) (x : RegIdx) (b : Byte) : (s.setReg x b).progLen = s.progLen := rfl
@[simp] theorem State.setReg_gameLoaded (s : State) (x : RegIdx) (b : Byte) : (s.setReg x b).gameLoaded = s.gameLoaded := rfl
@[simp] theorem State.setReg_runState (s : State) (x : RegIdx) (b : Byte) : (s.setReg x b).runState = s.runState := rfl
@[simp] theorem State.setReg_beep (s : State) (x : RegIdx) (b : Byte) : (s.setReg x b).beep = s.beep := rfl
@[simp] theorem State.setReg_drawRequest (s : State) (x : RegIdx) (b : Byte) : (s.setReg x b).drawRequest = s.drawRequest := rfl
@[simp] theorem State.setReg_draws (s : State) (x : RegIdx) (b : Byte) : (s.setReg x b).draws = s.draws := rfl
@[simp] theorem State.setReg_drawCount (s : State) (x : RegIdx) (b : Byte) : (s.setReg x b).drawCount = s.drawCount := rfl
@[simp] theorem State.setReg_cfg (s : State) (x : RegIdx) (b : Byte) : (s.setReg x b).cfg = s.cfg := rfl
@[simp] theorem State.setReg_peek (s : State) (x : RegIdx) (b : Byte) (k : Nat) : (s.setReg x b).peek k = s.peek k := rfl
@[simp] theorem State.setReg_cells (s : State) (x : RegIdx) (b : Byte) : (s.setReg x b).cells = s.cells := rfl
@[simp] theorem State.setReg_sp (s : State) (x : RegIdx) (b : Byte) : (s.setReg x b).sp = s.sp := rfl

/-! ## poke -/

@[simp] theorem State.poke_v (s : State) (a : Nat) (b : Byte) : (s.poke a b).v = s.v := rfl
@[simp] theorem State.poke_i (s : State) (a : Nat) (b : Byte) : (s.poke a b).i = s.i := rfl
@[simp] theorem State.poke_pc (s : State) (a : Nat) (b : Byte) : (s.poke a b).pc = s.pc := rfl
@[simp] theorem State.poke_stack (s : State) (a : Nat) (b : Byte) : (s.poke a b).stack = s.stack := rfl
@[simp] theorem State.poke_dt (s : State) (a : Nat) (b : Byte) : (s.poke a b).dt = s.dt := rfl
@[simp] theorem State.poke_st (s : State) (a : Nat) (b : Byte) : (s.poke a b).st = s.st := rfl
@[simp] theorem State.poke_fb (s : State) (a : Nat) (b : Byte) : (s.poke a b).fb = s.fb := rfl
@[simp] theorem State.poke_hires (s : State) (a : Nat) (b : Byte) : (s.poke a b).hires = s.hires := rfl
@[simp] theorem State.poke_mem (s : State) (a : Nat) (b : Byte) : (s.poke a b).mem = Memory.write s.cfg.font s.mem a b := rfl
@[simp] theorem State.poke_progLen (s : State) (a : Nat) (b : Byte) : (s.poke a b).progLen = s.progLen := rfl
@[simp] theorem State.poke_gameLoaded (s : State) (a : Nat) (b : Byte) : (s.poke a b).gameLoaded = s.gameLoaded := rfl
@[simp] theorem State.poke_runState (s : State) (a : Nat) (b : Byte) : (s.poke a b).runState = s.runState := rfl
@[simp] theorem State.poke_beep (s : State) (a : Nat) (b : Byte) : (s.poke a b).beep = s.beep := rfl
@[simp] theorem State.poke_drawRequest (s : State) (a : Nat) (b : Byte) : (s.poke a b).drawRequest = s.drawRequest := rfl
@[simp] theorem State.poke_draws (s : State) (a : Nat) (b : Byte) : (s.poke a b).draws = s.draws := rfl
@[simp] theorem State.poke_drawCount (s : State) (a : Nat) (b : Byte) : (s.poke a b).drawCount = s.drawCount := rfl
@[simp] theorem State.poke_cfg (s : State) (a : Nat) (b : Byte) : (s.poke a b).cfg = s.cfg := rfl
@[simp] theorem State.poke_reg (s : State) (a : Nat) (b : Byte) (k : RegIdx) : (s.poke a b).reg k = s.reg k := rfl
@[simp] theorem State.poke_cells (s : State) (a : Nat) (b : Byte) : (s.poke a b).cells = s.cells := rfl
@[simp] theorem State.poke_sp (s : State) (a : Nat) (b : Byte) : (s.poke a b).sp = s.sp := rfl

/-! ## jumpTo -/

@[simp] theorem State.jumpTo_v (s : State) (a : Word) : (s.jumpTo a).v = s.v := rfl
@[simp] theorem State.jumpTo_i (s : State) (a : Word) : (s.jumpTo a).i = s.i := rfl
@[simp] theorem State.jumpTo_pc (s : State) (a : Word) : (s.jumpTo a).pc = a - 2 := rfl
@[simp] theorem State.jumpTo_stack (s : State) (a : Word) : (s.jumpTo a).stack = s.stack := rfl
@[simp] theorem State.jumpTo_dt (s : State) (a : Word) : (s.jumpTo a).dt = s.dt := rfl
@[simp] theorem State.jumpTo_st (s : State) (a : Word) : (s.jumpTo a).st = s.st := rfl
@[simp] theorem State.jumpTo_fb (s : State) (a : Word) : (s.jumpTo a).fb = s.fb := rfl
@[simp] theorem State.jumpTo_hires (s : State) (a : Word) : (s.jumpTo a).hires = s.hires := rfl
@[simp] theorem State.jumpTo_mem (s : State) (a : Word) : (s.jumpTo a).mem = s.mem := rfl
@[simp] theorem State.jumpTo_progLen (s : State) (a : Word) : (s.jumpTo a).progLen = s.progLen := rfl
@[simp] theorem State.jumpTo_gameLoaded (s : State) (a : Word) : (s.jumpTo a).gameLoaded = s.gameLoaded := rfl
@[simp] theorem State.jumpTo_runState (s : State) (a : Word) : (s.jumpTo a).runState = s.runState := rfl
@[simp] theorem State.jumpTo_beep (s : State) (a : Word) : (s.jumpTo a).beep = s.beep := rfl
@[simp] theorem State.jumpTo_drawRequest (s : State) (a : Word) : (s.jumpTo a).drawRequest = s.drawRequest := rfl
@[simp] theorem State.jumpTo_draws (s : State) (a : Word) : (s.jumpTo a).draws = s.draws := rfl
@[simp] theorem State.jumpTo_drawCount (s : State) (a : Word) : (s.jumpTo a).drawCount = s.drawCount := rfl
@[simp] theorem State.jumpTo_cfg (s : State) (a : Word) : (s.jumpTo a).cfg = s.cfg := rfl
@[simp] theorem State.jumpTo_reg (s : State) (a : Word) (k : RegIdx) : (s.jumpTo a).reg k = s.reg k := rfl
@[simp] theorem State.jumpTo_peek (s : State) (a : Word) (k : Nat) : (s.jumpTo a).peek k = s.peek k := rfl
@[simp] theorem State.jumpTo_cells (s : State) (a : Word) : (s.jumpTo a).cells = s.cells := rfl
@[simp] theorem State.jumpTo_sp (s : State) (a : Word) : (s.jumpTo a).sp = s.sp := rfl

/-! ## skipIf -/

@[simp] theorem State.skipIf_v (s : State) (c : Bool) : (s.skipIf c).v = s.v := by cases c <;> rfl
@[simp] theorem State.skipIf_i (s : State) (c : Bool) : (s.skipIf c).i = s.i := by cases c <;> rfl
@[simp] theorem State.skipIf_pc (s : State) (c : Bool) : (s.skipIf c).pc = if c then s.pc + 2 else s.pc := by cases c <;> rfl
@[simp] theorem State.skipIf_stack (s : State) (c : Bool) : (s.skipIf c).stack = s.stack := by cases c <;> rfl
@[simp] theorem State.skipIf_dt (s : State) (c : Bool) : (s.skipIf c).dt = s.dt := by cases c <;> rfl
@[simp] theorem State.skipIf_st (s : State) (c : Bool) : (s.skipIf c).st = s.st := by cases c <;> rfl
@[simp] theorem State.skipIf_fb (s : State) (c : Bool) : (s.skipIf c).fb = s.fb := by cases c <;> rfl
@[simp] theorem State.skipIf_hires (s : State) (c : Bool) : (s.skipIf c).hires = s.hires := by cases c <;> rfl
@[simp] theorem State.skipIf_mem (s : State) (c : Bool) : (s.skipIf c).mem = s.mem := by cases c <;> rfl
@[simp] theorem State.skipIf_progLen (s : State) (c : Bool) : (s.skipIf c).progLen = s.progLen := by cases c <;> rfl
@[simp] theorem State.skipIf_gameLoaded (s : State) (c : Bool) : (s.skipIf c).gameLoaded = s.gameLoaded := by cases c <;> rfl
@[simp] theorem State.skipIf_runState (s : State) (c : Bool) : (s.skipIf c).runState = s.runState := by cases c <;> rfl
@[simp] theorem State.skipIf_beep (s : State) (c : Bool) : (s.skipIf c).beep = s.beep := by cases c <;> rfl
@[simp] theorem State.skipIf_drawRequest (s : State) (c : Bool) : (s.skipIf c).drawRequest = s.drawRequest := by cases c <;> rfl
@[simp] theorem State.skipIf_draws (s : State) (c : Bool) : (s.skipIf c).draws = s.draws := by cases c <;> rfl
@[simp] theorem State.skipIf_drawCount (s : State) (c : Bool) : (s.skipIf c).drawCount = s.drawCount := by cases c <;> rfl
@[simp] theorem State.skipIf_cfg (s : State) (c : Bool) : (s.skipIf c).cfg = s.cfg := by cases c <;> rfl
@[simp] theorem State.skipIf_reg (s : State) (c : Bool) (k : RegIdx) : (s.skipIf c).reg k = s.reg k := by cases c <;> rfl
@[simp] theorem State.skipIf_peek (s : State) (c : Bool) (k : Nat) : (s.skipIf c).peek k = s.peek k := by cases c <;> rfl
@[simp] theorem State.skipIf_cells (s : State) (c : Bool) : (s.skipIf c).cells = s.cells := by cases c <;> rfl
@[simp] theorem State.skipIf_sp (s : State) (c : Bool) : (s.skipIf c).sp = s.sp := by cases c <;> rfl

/-! ## advanceI -/

@[simp] theorem State.advanceI_v (s : State) (x : RegIdx) : (s.advanceI x).v = s.v := rfl
@[simp] theorem State.advanceI_i (s : State) (x : RegIdx) : (s.advanceI x).i = s.i + BitVec.ofNat 16 (x.val + 1) := rfl
@[simp] theorem State.advanceI_pc (s : State) (x : RegIdx) : (s.advanceI x).pc = s.pc := rfl
@[simp] theorem State.advanceI_stack (s : State) (x : RegIdx) : (s.advanceI x).stack = s.stack := rfl
@[simp] theorem State.advanceI_dt (s : State) (x : RegIdx) : (s.advanceI x).dt = s.dt := rfl
@[simp] theorem State.advanceI_st (s : State) (x : RegIdx) : (s.advanceI x).st = s.st := rfl
@[simp] theorem State.advanceI_fb (s : State) (x : RegIdx) : (s.advanceI x).fb = s.fb := rfl
@[simp] theorem State.advanceI_hires (s : State) (x : RegIdx) : (s.advanceI x).hires = s.hires := rfl
@[simp] theorem State.advanceI_mem (s : State) (x : RegIdx) : (s.advanceI x).mem = s.mem := rfl
@[simp] theorem State.advanceI_progLen (s : State) (x : RegIdx) : (s.advanceI x).progLen = s.progLen := rfl
@[simp] theorem State.advanceI_gameLoaded (s : State) (x : RegIdx) : (s.advanceI x).gameLoaded = s.gameLoaded := rfl
@[simp] theorem State.advanceI_runState (s : State) (x : RegIdx) : (s.advanceI x).runState = s.runState := rfl
@[simp] theorem State.advanceI_beep (s : State) (x : RegIdx) : (s.advanceI x).beep = s.beep := rfl
@[simp] theorem State.advanceI_drawRequest (s : State) (x : RegIdx) : (s.advanceI x).drawRequest = s.drawRequest := rfl
@[simp] theorem State.advanceI_draws (s : State) (x : RegIdx) : (s.advanceI x).draws = s.draws := rfl
@[simp] theorem State.advanceI_drawCount (s : State) (x : RegIdx) : (s.advanceI x).drawCount = s.drawCount := rfl
@[simp] theorem State.advanceI_cfg (s : State) (x : RegIdx) : (s.advanceI x).cfg = s.cfg := rfl
@[simp] theorem State.advanceI_reg (s : State) (x : RegIdx) (k : RegIdx) : (s.advanceI x).reg k = s.reg k := rfl
@[simp] theorem State.advanceI_peek (s : State) (x : RegIdx) (k : Nat) : (s.advanceI x).peek k = s.peek k := rfl
@[simp] theorem State.advanceI_cells (s : State) (x : RegIdx) : (s.advanceI x).cells = s.cells := rfl
@[simp] theorem State.advanceI_sp (s : State) (x : RegIdx) : (s.advanceI x).sp = s.sp := rfl

/-! ## drawn -/

@[simp] theorem State.drawn_v (s : State) (f : FrameBuf) (h : Bool) : (s.drawn f h).v = s.v.set (15 : RegIdx) (flagByte h) := rfl
@[simp] theorem State.drawn_i (s : State) (f : FrameBuf) (h : Bool) : (s.drawn f h).i = s.i := rfl
@[simp] theorem State.drawn_pc (s : State) (f : FrameBuf) (h : Bool) : (s.drawn f h).pc = s.pc := rfl
@[simp] theorem State.drawn_stack (s : State) (f : FrameBuf) (h : Bool) : (s.drawn f h).stack = s.stack := rfl
@[simp] theorem State.drawn_dt (s : State) (f : FrameBuf) (h : Bool) : (s.drawn f h).dt = s.dt := rfl
@[simp] theorem State.drawn_st (s : State) (f : FrameBuf) (h : Bool) : (s.drawn f h).st = s.st := rfl
@[simp] theorem State.drawn_fb (s : State) (f : FrameBuf) (h : Bool) : (s.drawn f h).fb = f := rfl
@[simp] theorem State.drawn_hires (s : State) (f : FrameBuf) (h : Bool) : (s.drawn f h).hires = s.hires := rfl
@[simp] theorem State.drawn_mem (s : State) (f : FrameBuf) (h : Bool) : (s.drawn f h).mem = s.mem := rfl
@[simp] theorem State.drawn_progLen (s : State) (f : FrameBuf) (h : Bool) : (s.drawn f h).progLen = s.progLen := rfl
@[simp] theorem State.drawn_gameLoaded (s : State) (f : FrameBuf) (h : Bool) : (s.drawn f h).gameLoaded = s.gameLoaded := rfl
@[simp] theorem State.drawn_runState (s : State) (f : FrameBuf) (h : Bool) : (s.drawn f h).runState = s.runState := rfl
@[simp] theorem State.drawn_beep (s : State) (f : FrameBuf) (h : Bool) : (s.drawn f h).beep = s.beep := rfl
@[simp] theorem State.drawn_drawRequest (s : State) (f : FrameBuf) (h : Bool) : (s.drawn f h).drawRequest = true := rfl
@[simp] theorem State.drawn_draws (s : State) (f : FrameBuf) (h : Bool) : (s.drawn f h).draws = s.draws := rfl
@[simp] theorem State.drawn_drawCount (s : State) (f : FrameBuf) (h : Bool) : (s.drawn f h).drawCount = s.drawCount := rfl
@[simp] theorem State.drawn_cfg (s : State) (f : FrameBuf) (h : Bool) : (s.drawn f h).cfg = s.cfg := rfl
@[simp] theorem State.drawn_peek (s : State) (f : FrameBuf) (h : Bool) (k : Nat) : (s.drawn f h).peek k = s.peek k := rfl
@[simp] theorem State.drawn_cells (s : State) (f : FrameBuf) (h : Bool) : (s.drawn f h).cells = s.cells := rfl
@[simp] theorem State.drawn_sp (s : State) (f : FrameBuf) (h : Bool) : (s.drawn f h).sp = s.sp := rfl

/-! ## writeFlagged -/

@[simp] theorem State.writeFlagged_i (s : State) (x y : RegIdx) (r f : Byte) : (s.writeFlagged x y r f).i = s.i := by unfold State.writeFlagged; split <;> rfl
@[simp] theorem State.writeFlagged_pc (s : State) (x y : RegIdx) (r f : Byte) : (s.writeFlagged x y r f).pc = s.pc := by unfold State.writeFlagged; split <;> rfl
@[simp] theorem State.writeFlagged_stack (s : State) (x y : RegIdx) (r f : Byte) : (s.writeFlagged x y r f).stack = s.stack := by unfold State.writeFlagged; split <;> rfl
@[simp] theorem State.writeFlagged_dt (s : State) (x y : RegIdx) (r f : Byte) : (s.writeFlagged x y r f).dt = s.dt := by unfold State.writeFlagged; split <;> rfl
@[simp] theorem State.writeFlagged_st (s : State) (x y : RegIdx) (r f : Byte) : (s.writeFlagged x y r f).st = s.st := by unfold State.writeFlagged; split <;> rfl
@[simp] theorem State.writeFlagged_fb (s : State) (x y : RegIdx) (r f : Byte) : (s.writeFlagged x y r f).fb = s.fb := by unfold State.writeFlagged; split <;> rfl
@[simp] theorem State.writeFlagged_hires (s : State) (x y : RegIdx) (r f : Byte) : (s.writeFlagged x y r f).hires = s.hires := by unfold State.writeFlagged; split <;> rfl
@[simp] theorem State.writeFlagged_mem (s : State) (x y : RegIdx) (r f : Byte) : (s.writeFlagged x y r f).mem = s.mem := by unfold State.writeFlagged; split <;> rfl
@[simp] theorem State.writeFlagged_progLen (s : State) (x y : RegIdx) (r f : Byte) : (s.writeFlagged x y r f).progLen = s.progLen := by unfold State.writeFlagged; split <;> rfl
@[simp] theorem State.writeFlagged_gameLoaded (s : State) (x y : RegIdx) (r f : Byte) : (s.writeFlagged x y r f).gameLoaded = s.gameLoaded := by unfold State.writeFlagged; split <;> rfl
@[simp] theorem State.writeFlagged_runState (s : State) (x y : RegIdx) (r f : Byte) : (s.writeFlagged x y r f).runState = s.runState := by unfold State.writeFlagged; split <;> rfl
@[simp] theorem State.writeFlagged_beep (s : State) (x y : RegIdx) (r f : Byte) : (s.writeFlagged x y r f).beep = s.beep := by unfold State.writeFlagged; split <;> rfl
@[simp] theorem State.writeFlagged_drawRequest (s : State) (x y : RegIdx) (r f : Byte) : (s.writeFlagged x y r f).drawRequest = s.drawRequest := by unfold State.writeFlagged; split <;> rfl
@[simp] theorem State.writeFlagged_draws (s : State) (x y : RegIdx) (r f : Byte) : (s.writeFlagged x y r f).draws = s.draws := by unfold State.writeFlagged; split <;> rfl
@[simp] theorem State.writeFlagged_drawCount (s : State) (x y : RegIdx) (r f : Byte) : (s.writeFlagged x y r f).drawCount = s.drawCount := by unfold State.writeFlagged; split <;> rfl
@[simp] theorem State.writeFlagged_cfg (s : State) (x y : RegIdx) (r f : Byte) : (s.writeFlagged x y r f).cfg = s.cfg := by unfold State.writeFlagged; split <;> rfl
@[simp] theorem State.writeFlagged_peek (s : State) (x y : RegIdx) (r f : Byte) (k : Nat) : (s.writeFlagged x y r f).peek k = s.peek k := by unfold State.writeFlagged; split <;> rfl
@[simp] theorem State.writeFlagged_cells (s : State) (x y : RegIdx) (r f : Byte) : (s.writeFlagged x y r f).cells = s.cells := by unfold State.writeFlagged; split <;> rfl
@[simp] theorem State.writeFlagged_sp (s : State) (x y : RegIdx) (r f : Byte) : (s.writeFlagged x y r f).sp = s.sp := by unfold State.writeFlagged; split <;> rfl

/-! ## clearPulses -/

@[simp] theorem State.clearPulses_v (s : State) : (s.clearPulses).v = s.v := rfl
@[simp] theorem State.clearPulses_i (s : State) : (s.clearPulses).i = s.i := rfl
@[simp] theorem State.clearPulses_pc (s : State) : (s.clearPulses).pc = s.pc := rfl
@[simp] theorem State.clearPulses_stack (s : State) : (s.clearPulses).stack = s.stack := rfl
@[simp] theorem State.clearPulses_dt (s : State) : (s.clearPulses).dt = s.dt := rfl
@[simp] theorem State.clearPulses_st (s : State) : (s.clearPulses).st = s.st := rfl
@[simp] theorem State.clearPulses_fb (s : State) : (s.clearPulses).fb = s.fb := rfl
@[simp] theorem State.clearPulses_hires (s : State) : (s.clearPulses).hires = s.hires := rfl
@[simp] theorem State.clearPulses_mem (s : State) : (s.clearPulses).mem = s.mem := rfl
@[simp] theorem State.clearPulses_progLen (s : State) : (s.clearPulses).progLen = s.progLen := rfl
@[simp] theorem State.clearPulses_gameLoaded (s : State) : (s.clearPulses).gameLoaded = s.gameLoaded := rfl
@[simp] theorem State.clearPulses_runState (s : State) : (s.clearPulses).runState = s.runState := rfl
@[simp] theorem State.clearPulses_beep (s : State) : (s.clearPulses).beep = false := rfl
@[simp] theorem State.clearPulses_drawRequest (s : State) : (s.clearPulses).drawRequest = false := rfl
@[simp] theorem State.clearPulses_draws (s : State) : (s.clearPulses).draws = s.draws := rfl
@[simp] theorem State.clearPulses_drawCount (s : State) : (s.clearPulses).drawCount = s.drawCount := rfl
@[simp] theorem State.clearPulses_cfg (s : State) : (s.clearPulses).cfg = s.cfg := rfl
@[simp] theorem State.clearPulses_reg (s : State) (k : RegIdx) : (s.clearPulses).reg k = s.reg k := rfl
@[simp] theorem State.clearPulses_peek (s : State) (k : Nat) : (s.clearPulses).peek k = s.peek k := rfl
@[simp] theorem State.clearPulses_cells (s : State) : (s.clearPulses).cells = s.cells := rfl
@[simp] theorem State.clearPulses_sp (s : State) : (s.clearPulses).sp = s.sp := rfl

/-! ## sniff -/

@[simp] theorem State.sniff_v (s : State) (w : Word) : (s.sniff w).v = s.v := by unfold State.sniff; split <;> simp_all
@[simp] theorem State.sniff_i (s : State) (w : Word) : (s.sniff w).i = s.i := by unfold State.sniff; split <;> simp_all
@[simp] theorem State.sniff_pc (s : State) (w : Word) : (s.sniff w).pc = s.pc := by unfold State.sniff; split <;> simp_all
@[simp] theorem State.sniff_stack (s : State) (w : Word) : (s.sniff w).stack = s.stack := by unfold State.sniff; split <;> simp_all
@[simp] theorem State.sniff_dt (s : State) (w : Word) : (s.sniff w).dt = s.dt := by unfold State.sniff; split <;> simp_all
@[simp] theorem State.sniff_st (s : State) (w : Word) : (s.sniff w).st = s.st := by unfold State.sniff; split <;> simp_all
@[simp] theorem State.sniff_fb (s : State) (w : Word) : (s.sniff w).fb = s.fb := by unfold State.sniff; split <;> simp_all
@[simp] theorem State.sniff_hires (s : State) (w : Word) : (s.sniff w).hires = (s.hires || s.isSentinel w) := by unfold State.sniff; split <;> simp_all
@[simp] theorem State.sniff_mem (s : State) (w : Word) : (s.sniff w).mem = s.mem := by unfold State.sniff; split <;> simp_all
@[simp] theorem State.sniff_progLen (s : State) (w : Word) : (s.sniff w).progLen = s.progLen := by unfold State.sniff; split <;> simp_all
@[simp] theorem State.sniff_gameLoaded (s : State) (w : Word) : (s.sniff w).gameLoaded = s.gameLoaded := by unfold State.sniff; split <;> simp_all
@[simp] theorem State.sniff_runState (s : State) (w : Word) : (s.sniff w).runState = s.runState := by unfold State.sniff; split <;> simp_all
@[simp] theorem State.sniff_beep (s : State) (w : Word) : (s.sniff w).beep = s.beep := by unfold State.sniff; split <;> simp_all
@[simp] theorem State.sniff_drawRequest (s : State) (w : Word) : (s.sniff w).drawRequest = s.drawRequest := by unfold State.sniff; split <;> simp_all
@[simp] theorem State.sniff_draws (s : State) (w : Word) : (s.sniff w).draws = s.draws := by unfold State.sniff; split <;> simp_all
@[simp] theorem State.sniff_drawCount (s : State) (w : Word) : (s.sniff w).drawCount = s.drawCount := by unfold State.sniff; split <;> simp_all
@[simp] theorem State.sniff_cfg (s : State) (w : Word) : (s.sniff w).cfg = s.cfg := by unfold State.sniff; split <;> simp_all
@[simp] theorem State.sniff_reg (s : State) (w : Word) (k : RegIdx) : (s.sniff w).reg k = s.reg k := by unfold State.sniff; split <;> rfl
@[simp] theorem State.sniff_peek (s : State) (w : Word) (k : Nat) : (s.sniff w).peek k = s.peek k := by unfold State.sniff; split <;> rfl
@[simp] theorem State.sniff_sp (s : State) (w : Word) : (s.sniff w).sp = s.sp := by unfold State.sniff; split <;> rfl

/-! ## advance -/

@[simp] theorem State.advance_v (s : State) : (s.advance).v = s.v := rfl
@[simp] theorem State.advance_i (s : State) : (s.advance).i = s.i := rfl
@[simp] theorem State.advance_pc (s : State) : (s.advance).pc = s.pc + 2 := rfl
@[simp] theorem State.advance_stack (s : State) : (s.advance).stack = s.stack := rfl
@[simp] theorem State.advance_dt (s : State) : (s.advance).dt = s.dt := rfl
@[simp] theorem State.advance_st (s : State) : (s.advance).st = s.st := rfl
@[simp] theorem State.advance_fb (s : State) : (s.advance).fb = s.fb := rfl
@[simp] theorem State.advance_hires (s : State) : (s.advance).hires = s.hires := rfl
@[simp] theorem State.advance_mem (s : State) : (s.advance).mem = s.mem := rfl
@[simp] theorem State.advance_progLen (s : State) : (s.advance).progLen = s.progLen := rfl
@[simp] theorem State.advance_gameLoaded (s : State) : (s.advance).gameLoaded = s.gameLoaded := rfl
@[simp] theorem State.advance_runState (s : State) : (s.advance).runState = s.runState := rfl
@[simp] theorem State.advance_beep (s : State) : (s.advance).beep = s.beep := rfl
@[simp] theorem State.advance_drawRequest (s : State) : (s.advance).drawRequest = s.drawRequest := rfl
@[simp] theorem State.advance_draws (s : State) : (s.advance).draws = s.draws := rfl
@[simp] theorem State.advance_drawCount (s : State) : (s.advance).drawCount = s.drawCount := rfl
@[simp] theorem State.advance_cfg (s : State) : (s.advance).cfg = s.cfg := rfl
@[simp] theorem State.advance_reg (s : State) (k : RegIdx) : (s.advance).reg k = s.reg k := rfl
@[simp] theorem State.advance_peek (s : State) (k : Nat) : (s.advance).peek k = s.peek k := rfl
@[simp] theorem State.advance_cells (s : State) : (s.advance).cells = s.cells := rfl
@[simp] theorem State.advance_sp (s : State) : (s.advance).sp = s.sp := rfl

/-! ## timerTick -/

@[simp] theorem State.timerTick_v (s : State) : (s.timerTick).v = s.v := rfl
@[simp] theorem State.timerTick_i (s : State) : (s.timerTick).i = s.i := rfl
@[simp] theorem State.timerTick_pc (s : State) : (s.timerTick).pc = s.pc := rfl
@[simp] theorem State.timerTick_stack (s : State) : (s.timerTick).stack = s.stack := rfl
@[simp] theorem State.timerTick_dt (s : State) : (s.timerTick).dt = countdown s.dt := rfl
@[simp] theorem State.timerTick_st (s : State) : (s.timerTick).st = countdown s.st := rfl
@[simp] theorem State.timerTick_fb (s : State) : (s.timerTick).fb = s.fb := rfl
@[simp] theorem State.timerTick_hires (s : State) : (s.timerTick).hires = s.hires := rfl
@[simp] theorem State.timerTick_mem (s : State) : (s.timerTick).mem = s.mem := rfl
@[simp] theorem State.timerTick_progLen (s : State) : (s.timerTick).progLen = s.progLen := rfl
@[simp] theorem State.timerTick_gameLoaded (s : State) : (s.timerTick).gameLoaded = s.gameLoaded := rfl
@[simp] theorem State.timerTick_runState (s : State) : (s.timerTick).runState = s.runState := rfl
@[simp] theorem State.timerTick_beep (s : State) : (s.timerTick).beep = (s.beep || decide (s.st = 1)) := rfl
@[simp] theorem State.timerTick_drawRequest (s : State) : (s.timerTick).drawRequest = s.drawRequest := rfl
@[simp] theorem State.timerTick_draws (s : State) : (s.timerTick).draws = s.draws := rfl
@[simp] theorem State.timerTick_drawCount (s : State) : (s.timerTick).drawCount = s.drawCount := rfl
@[simp] theorem State.timerTick_cfg (s : State) : (s.timerTick).cfg = s.cfg := rfl
@[simp] theorem State.timerTick_reg (s : State) (k : RegIdx) : (s.timerTick).reg k = s.reg k := rfl
@[simp] theorem State.timerTick_peek (s : State) (k : Nat) : (s.timerTick).peek k = s.peek k := rfl
@[simp] theorem State.timerTick_cells (s : State) : (s.timerTick).cells = s.cells := rfl
@[simp] theorem State.timerTick_sp (s : State) : (s.timerTick).sp = s.sp := rfl

/-! ## redraw -/

@[simp] theorem State.redraw_v (s : State) : (s.redraw).v = s.v := rfl
@[simp] theorem State.redraw_i (s : State) : (s.redraw).i = s.i := rfl
@[simp] theorem State.redraw_pc (s : State) : (s.redraw).pc = s.pc := rfl
@[simp] theorem State.redraw_stack (s : State) : (s.redraw).stack = s.stack := rfl
@[simp] theorem State.redraw_dt (s : State) : (s.redraw).dt = s.dt := rfl
@[simp] theorem State.redraw_st (s : State) : (s.redraw).st = s.st := rfl
@[simp] theorem State.redraw_fb (s : State) : (s.redraw).fb = s.fb := rfl
@[simp] theorem State.redraw_hires (s : State) : (s.redraw).hires = s.hires := rfl
@[simp] theorem State.redraw_mem (s : State) : (s.redraw).mem = s.mem := rfl
@[simp] theorem State.redraw_progLen (s : State) : (s.redraw).progLen = s.progLen := rfl
@[simp] theorem State.redraw_gameLoaded (s : State) : (s.redraw).gameLoaded = s.gameLoaded := rfl
@[simp] theorem State.redraw_runState (s : State) : (s.redraw).runState = s.runState := rfl
@[simp] theorem State.redraw_beep (s : State) : (s.redraw).beep = s.beep := rfl
@[simp] theorem State.redraw_drawRequest (s : State) : (s.redraw).drawRequest = s.drawRequest := rfl
@[simp] theorem State.redraw_draws (s : State) : (s.redraw).draws = Config.freeDraws s.drawCount := rfl
@[simp] theorem State.redraw_drawCount (s : State) : (s.redraw).drawCount = s.drawCount + 1 := rfl
@[simp] theorem State.redraw_cfg (s : State) : (s.redraw).cfg = s.cfg := rfl
@[simp] theorem State.redraw_reg (s : State) (k : RegIdx) : (s.redraw).reg k = s.reg k := rfl
@[simp] theorem State.redraw_peek (s : State) (k : Nat) : (s.redraw).peek k = s.peek k := rfl
@[simp] theorem State.redraw_cells (s : State) : (s.redraw).cells = s.cells := rfl
@[simp] theorem State.redraw_sp (s : State) : (s.redraw).sp = s.sp := rfl

/-! ## finish -/

@[simp] theorem State.finish_v (s : State) : (s.finish).v = s.v := rfl
@[simp] theorem State.finish_i (s : State) : (s.finish).i = s.i := rfl
@[simp] theorem State.finish_pc (s : State) : (s.finish).pc = s.pc + 2 := rfl
@[simp] theorem State.finish_stack (s : State) : (s.finish).stack = s.stack := rfl
@[simp] theorem State.finish_dt (s : State) : (s.finish).dt = countdown s.dt := rfl
@[simp] theorem State.finish_st (s : State) : (s.finish).st = countdown s.st := rfl
@[simp] theorem State.finish_fb (s : State) : (s.finish).fb = s.fb := rfl
@[simp] theorem State.finish_hires (s : State) : (s.finish).hires = s.hires := rfl
@[simp] theorem State.finish_mem (s : State) : (s.finish).mem = s.mem := rfl
@[simp] theorem State.finish_progLen (s : State) : (s.finish).progLen = s.progLen := rfl
@[simp] theorem State.finish_gameLoaded (s : State) : (s.finish).gameLoaded = s.gameLoaded := rfl
@[simp] theorem State.finish_runState (s : State) : (s.finish).runState = s.runState := rfl
@[simp] theorem State.finish_beep (s : State) : (s.finish).beep = (s.beep || decide (s.st = 1)) := rfl
@[simp] theorem State.finish_drawRequest (s : State) : (s.finish).drawRequest = s.drawRequest := rfl
@[simp] theorem State.finish_draws (s : State) : (s.finish).draws = Config.freeDraws s.drawCount := rfl
@[simp] theorem State.finish_drawCount (s : State) : (s.finish).drawCount = s.drawCount + 1 := rfl
@[simp] theorem State.finish_cfg (s : State) : (s.finish).cfg = s.cfg := rfl
@[simp] theorem State.finish_reg (s : State) (k : RegIdx) : (s.finish).reg k = s.reg k := rfl
@[simp] theorem State.finish_peek (s : State) (k : Nat) : (s.finish).peek k = s.peek k := rfl
@[simp] theorem State.finish_cells (s : State) : (s.finish).cells = s.cells := rfl
@[simp] theorem State.finish_sp (s : State) : (s.finish).sp = s.sp := rfl

/-! ## haltEntry -/

@[simp] theorem State.haltEntry_v (s : State) (r : HaltReason) (a : Word) : (s.haltEntry r a).v = s.v := rfl
@[simp] theorem State.haltEntry_i (s : State) (r : HaltReason) (a : Word) : (s.haltEntry r a).i = s.i := rfl
@[simp] theorem State.haltEntry_pc (s : State) (r : HaltReason) (a : Word) : (s.haltEntry r a).pc = s.pc := rfl
@[simp] theorem State.haltEntry_stack (s : State) (r : HaltReason) (a : Word) : (s.haltEntry r a).stack = s.stack := rfl
@[simp] theorem State.haltEntry_dt (s : State) (r : HaltReason) (a : Word) : (s.haltEntry r a).dt = s.dt := rfl
@[simp] theorem State.haltEntry_st (s : State) (r : HaltReason) (a : Word) : (s.haltEntry r a).st = s.st := rfl
@[simp] theorem State.haltEntry_fb (s : State) (r : HaltReason) (a : Word) : (s.haltEntry r a).fb = s.fb := rfl
@[simp] theorem State.haltEntry_hires (s : State) (r : HaltReason) (a : Word) : (s.haltEntry r a).hires = s.hires := rfl
@[simp] theorem State.haltEntry_mem (s : State) (r : HaltReason) (a : Word) : (s.haltEntry r a).mem = s.mem := rfl
@[simp] theorem State.haltEntry_progLen (s : State) (r : HaltReason) (a : Word) : (s.haltEntry r a).progLen = s.progLen := rfl
@[simp] theorem State.haltEntry_gameLoaded (s : State) (r : HaltReason) (a : Word) : (s.haltEntry r a).gameLoaded = s.gameLoaded := rfl
@[simp] theorem State.haltEntry_runState (s : State) (r : HaltReason) (a : Word) : (s.haltEntry r a).runState = .halted r a := rfl
@[simp] theorem State.haltEntry_beep (s : State) (r : HaltReason) (a : Word) : (s.haltEntry r a).beep = false := rfl
@[simp] theorem State.haltEntry_drawRequest (s : State) (r : HaltReason) (a : Word) : (s.haltEntry r a).drawRequest = false := rfl
@[simp] theorem State.haltEntry_draws (s : State) (r : HaltReason) (a : Word) : (s.haltEntry r a).draws = s.draws := rfl
@[simp] theorem State.haltEntry_drawCount (s : State) (r : HaltReason) (a : Word) : (s.haltEntry r a).drawCount = s.drawCount := rfl
@[simp] theorem State.haltEntry_cfg (s : State) (r : HaltReason) (a : Word) : (s.haltEntry r a).cfg = s.cfg := rfl
@[simp] theorem State.haltEntry_reg (s : State) (r : HaltReason) (a : Word) (k : RegIdx) : (s.haltEntry r a).reg k = s.reg k := rfl
@[simp] theorem State.haltEntry_peek (s : State) (r : HaltReason) (a : Word) (k : Nat) : (s.haltEntry r a).peek k = s.peek k := rfl
@[simp] theorem State.haltEntry_cells (s : State) (r : HaltReason) (a : Word) : (s.haltEntry r a).cells = s.cells := rfl
@[simp] theorem State.haltEntry_sp (s : State) (r : HaltReason) (a : Word) : (s.haltEntry r a).sp = s.sp := rfl

end Sys2Proof.Machine
end

