-- ==== Sys2Proof/Laws/Memory.lean ====
section
/-! SUPPORT. Memory: read after write, the canonical form kept, and what a block read or write can do. -/

namespace Sys2Proof.Machine

/-! ## One byte -/

theorem Memory.lookup_put (m : Memory) (a b : Nat) (v : Byte) :
    Memory.lookup (Memory.put m a v) b = if b = a then some v else Memory.lookup m b := by
  induction m with
  | nil => simp [Memory.put, Memory.lookup]
  | cons p m ih =>
    obtain ⟨c, w⟩ := p
    rw [Memory.put]
    split
    · simp [Memory.lookup]
    · split
      · subst_vars; by_cases h : b = c <;> simp [Memory.lookup, h]
      · simp only [Memory.lookup, ih]
        by_cases h1 : b = c <;> by_cases h2 : b = a <;> simp_all

theorem Memory.lookup_drop (m : Memory) (a b : Nat) :
    Memory.lookup (Memory.drop m a) b = if b = a then none else Memory.lookup m b := by
  induction m with
  | nil => simp [Memory.drop, Memory.lookup]
  | cons p m ih =>
    obtain ⟨c, w⟩ := p
    simp only [Memory.drop, List.filter_cons] at ih ⊢
    by_cases hc : c = a <;> by_cases hb : b = a <;> by_cases h : b = c <;>
      simp_all [Memory.lookup]

/-- Read after write. -/
theorem Memory.read_write (f : Font) (m : Memory) (a b : Nat) (v : Byte) :
    Memory.read f (Memory.write f m a v) b = if b = a then v else Memory.read f m b := by
  unfold Memory.read Memory.write
  split
  · rw [Memory.lookup_drop]; split <;> simp_all
  · rw [Memory.lookup_put]; split <;> simp

@[simp] theorem State.peek_poke (s : State) (a b : Nat) (v : Byte) :
    (s.poke a v).peek b = if b = a then v else s.peek b := Memory.read_write _ _ _ _ _

/-! ## The canonical form -/

theorem Memory.mem_put {m : Memory} {a : Nat} {v : Byte} {p : Host.Cell} (h : p ∈ Memory.put m a v) :
    p = (a, v) ∨ p ∈ m := by
  induction m with
  | nil => simpa [Memory.put] using h
  | cons q m ih =>
    obtain ⟨c, w⟩ := q
    rw [Memory.put] at h
    split at h
    · simpa using h
    · split at h
      · rcases List.mem_cons.1 h with h | h
        · exact .inl h
        · exact .inr (List.mem_cons_of_mem _ h)
      · rcases List.mem_cons.1 h with h | h
        · exact .inr (h ▸ List.mem_cons_self)
        · exact (ih h).imp_right (List.mem_cons_of_mem _)

theorem Memory.put_sorted {m : Memory} (a : Nat) (v : Byte) (h : m.Pairwise (fun p q => p.1 < q.1)) :
    (Memory.put m a v).Pairwise (fun p q => p.1 < q.1) := by
  induction m with
  | nil => simp [Memory.put]
  | cons q m ih =>
    obtain ⟨c, w⟩ := q
    obtain ⟨hc, hm⟩ := List.pairwise_cons.1 h
    rw [Memory.put]
    split
    · rename_i hac
      refine List.pairwise_cons.2 ⟨fun p hp => ?_, h⟩
      rcases List.mem_cons.1 hp with rfl | hp
      · exact hac
      · exact Nat.lt_trans hac (hc p hp)
    · split
      · subst_vars; exact List.pairwise_cons.2 ⟨hc, hm⟩
      · refine List.pairwise_cons.2 ⟨fun p hp => ?_, ih hm⟩
        rcases Memory.mem_put hp with rfl | hp
        · simp only; omega
        · exact hc p hp

/-- A write inside 0x000 to 0xFFF keeps the canonical form. -/
theorem Memory.write_wf {f : Font} {m : Memory} {a : Nat} {v : Byte} (h : Memory.wf f m) (ha : a < 0x1000) :
    Memory.wf f (Memory.write f m a v) := by
  unfold Memory.write
  split
  · exact ⟨h.1.filter _, fun p hp => h.2 p (List.mem_of_mem_filter hp)⟩
  · rename_i hv
    refine ⟨Memory.put_sorted a v h.1, fun p hp => ?_⟩
    rcases Memory.mem_put hp with rfl | hp
    · exact ⟨ha, hv⟩
    · exact h.2 p hp

/-- Memories in the canonical form that read alike are equal data. -/
theorem Memory.ext_of_wf {f : Font} {m n : Memory} (hm : Memory.wf f m) (hn : Memory.wf f n)
    (h : ∀ a, Memory.read f m a = Memory.read f n a) : m = n := by
  have look : ∀ {l : Memory}, Memory.wf f l → ∀ p : Host.Cell, p ∈ l ↔ Memory.lookup l p.1 = some p.2 := by
    intro l hl
    obtain ⟨hs, -⟩ := hl
    induction l with
    | nil => simp [Memory.lookup]
    | cons q l ih =>
      obtain ⟨c, w⟩ := q
      obtain ⟨hc, hs⟩ := List.pairwise_cons.1 hs
      rintro ⟨a, v⟩
      by_cases hac : a = c
      · subst hac
        have : (a, v) ∉ l := fun hl => Nat.lt_irrefl a (hc (a, v) hl)
        simp [Memory.lookup, this, eq_comm]
      · simp [Memory.lookup, hac, ih hs]
  have nolist : ∀ {l : Memory}, Memory.wf f l → ∀ a, Memory.lookup l a ≠ some (unlisted f a) := by
    intro l hl a ha
    exact (hl.2 _ ((look hl (a, unlisted f a)).2 ha)).2 rfl
  have key : ∀ a, Memory.lookup m a = Memory.lookup n a := by
    intro a
    have := h a
    unfold Memory.read at this
    have h1 := nolist hm a
    have h2 := nolist hn a
    cases e1 : Memory.lookup m a <;> cases e2 : Memory.lookup n a <;> simp_all
  refine List.Perm.eq_of_pairwise (le := fun p q : Host.Cell => p.1 < q.1) ?_ hm.1 hn.1 ?_
  · intro p q _ _ h1 h2; exact absurd (Nat.lt_trans h1 h2) (Nat.lt_irrefl _)
  · have nd : ∀ {l : Memory}, Memory.wf f l → l.Nodup := fun hl =>
      hl.1.imp (fun {a b} hab e => by subst e; exact Nat.lt_irrefl _ hab)
    refine (List.perm_ext_iff_of_nodup (nd hm) (nd hn)).2 fun p => ?_
    rw [look hm, look hn, key]

/-! ## Bytes in a row -/

@[simp] theorem State.peeks_length (s : State) (base n : Nat) : (s.peeks base n).length = n := by
  induction n generalizing base with
  | zero => rfl
  | succ n ih => simp [State.peeks, ih]

theorem State.peeks_getElem (s : State) (base n k : Nat) (h : k < (s.peeks base n).length) :
    (s.peeks base n)[k] = s.peek (base + k) := by
  induction n generalizing base k with
  | zero => simp at h
  | succ n ih =>
    cases k with
    | zero => rfl
    | succ k =>
      have := ih (base + 1) k (by simpa using h)
      simp only [State.peeks, List.getElem_cons_succ, this]
      congr 1; omega

/-- `pokes` writes memory and nothing else. -/
theorem State.pokes_eq (s : State) (base : Nat) (bs : List Byte) :
    s.pokes base bs = { s with mem := (s.pokes base bs).mem } := by
  induction bs generalizing s base with
  | nil => rfl
  | cons b bs ih => rw [State.pokes, ih]; rfl

@[simp] theorem State.pokes_v (s : State) (base : Nat) (bs : List Byte) : (s.pokes base bs).v = s.v := by
  rw [State.pokes_eq]
@[simp] theorem State.pokes_i (s : State) (base : Nat) (bs : List Byte) : (s.pokes base bs).i = s.i := by
  rw [State.pokes_eq]
@[simp] theorem State.pokes_pc (s : State) (base : Nat) (bs : List Byte) : (s.pokes base bs).pc = s.pc := by
  rw [State.pokes_eq]
@[simp] theorem State.pokes_stack (s : State) (base : Nat) (bs : List Byte) : (s.pokes base bs).stack = s.stack := by
  rw [State.pokes_eq]
@[simp] theorem State.pokes_dt (s : State) (base : Nat) (bs : List Byte) : (s.pokes base bs).dt = s.dt := by
  rw [State.pokes_eq]
@[simp] theorem State.pokes_st (s : State) (base : Nat) (bs : List Byte) : (s.pokes base bs).st = s.st := by
  rw [State.pokes_eq]
@[simp] theorem State.pokes_fb (s : State) (base : Nat) (bs : List Byte) : (s.pokes base bs).fb = s.fb := by
  rw [State.pokes_eq]
@[simp] theorem State.pokes_hires (s : State) (base : Nat) (bs : List Byte) : (s.pokes base bs).hires = s.hires := by
  rw [State.pokes_eq]
@[simp] theorem State.pokes_progLen (s : State) (base : Nat) (bs : List Byte) : (s.pokes base bs).progLen = s.progLen := by
  rw [State.pokes_eq]
@[simp] theorem State.pokes_gameLoaded (s : State) (base : Nat) (bs : List Byte) : (s.pokes base bs).gameLoaded = s.gameLoaded := by
  rw [State.pokes_eq]
@[simp] theorem State.pokes_runState (s : State) (base : Nat) (bs : List Byte) : (s.pokes base bs).runState = s.runState := by
  rw [State.pokes_eq]
@[simp] theorem State.pokes_beep (s : State) (base : Nat) (bs : List Byte) : (s.pokes base bs).beep = s.beep := by
  rw [State.pokes_eq]
@[simp] theorem State.pokes_drawRequest (s : State) (base : Nat) (bs : List Byte) : (s.pokes base bs).drawRequest = s.drawRequest := by
  rw [State.pokes_eq]
@[simp] theorem State.pokes_draws (s : State) (base : Nat) (bs : List Byte) : (s.pokes base bs).draws = s.draws := by
  rw [State.pokes_eq]
@[simp] theorem State.pokes_drawCount (s : State) (base : Nat) (bs : List Byte) : (s.pokes base bs).drawCount = s.drawCount := by
  rw [State.pokes_eq]
@[simp] theorem State.pokes_cfg (s : State) (base : Nat) (bs : List Byte) : (s.pokes base bs).cfg = s.cfg := by
  rw [State.pokes_eq]
@[simp] theorem State.pokes_reg (s : State) (base : Nat) (bs : List Byte) (k : RegIdx) :
    (s.pokes base bs).reg k = s.reg k := by rw [State.pokes_eq]; rfl

theorem State.peek_pokes_outside (s : State) (base : Nat) (bs : List Byte) (a : Nat)
    (h : a < base ∨ base + bs.length ≤ a) : (s.pokes base bs).peek a = s.peek a := by
  induction bs generalizing s base with
  | nil => rfl
  | cons b bs ih =>
    simp only [List.length_cons] at h
    rw [State.pokes, ih _ _ (by omega), State.peek_poke, if_neg (by omega)]

theorem State.peek_pokes_inside (s : State) (base : Nat) (bs : List Byte) (k : Nat) (h : k < bs.length) :
    (s.pokes base bs).peek (base + k) = bs[k] := by
  induction bs generalizing s base k with
  | nil => simp at h
  | cons b bs ih =>
    cases k with
    | zero => rw [State.pokes, State.peek_pokes_outside _ _ _ _ (by omega)]; simp
    | succ k =>
      have := ih (s.poke base b) (base + 1) k (by simpa using h)
      rw [State.pokes, List.getElem_cons_succ, ← this]
      congr 1; omega

theorem State.pokes_wf {s : State} {base : Nat} {bs : List Byte} (h : Memory.wf s.cfg.font s.mem)
    (hb : base + bs.length ≤ 0x1000) : Memory.wf s.cfg.font (s.pokes base bs).mem := by
  induction bs generalizing s base with
  | nil => exact h
  | cons b bs ih =>
    simp only [List.length_cons] at hb
    exact ih (s := s.poke base b) (Memory.write_wf h (by omega)) (by omega)

/-! ## Checked block access -/

theorem rangeFault_eq_none_iff (base : Word) (n : Nat) :
    rangeFault base n = none ↔ n = 0 ∨ base.toNat + n ≤ 0x1000 := by
  unfold rangeFault; split <;> simp <;> omega

theorem rangeFault_eq_some_iff (base : Word) (n : Nat) (a : Word) :
    rangeFault base n = some a ↔ 0 < n ∧ 0x1000 < base.toNat + n ∧ a.toNat = max base.toNat 0x1000 := by
  have := base.isLt
  unfold rangeFault
  split
  · rename_i h
    simp only [Option.some.injEq, h, true_and]
    constructor
    · rintro rfl; simp; omega
    · intro e; apply BitVec.eq_of_toNat_eq; simp; omega
  · rename_i h
    simp; omega

/-- Everything a checked block write can do: it stores every byte, or it reports the lowest address out of range. -/
theorem State.storeRange_ok_iff (s t : State) (base : Word) (bs : List Byte) :
    s.storeRange base bs = .ok t ↔
      (bs = [] ∨ base.toNat + bs.length ≤ 0x1000) ∧ t = s.pokes base.toNat bs := by
  rw [← List.length_eq_zero_iff, ← rangeFault_eq_none_iff]
  unfold State.storeRange
  cases rangeFault base bs.length <;> simp [eq_comm]

theorem State.storeRange_error_iff (s : State) (base : Word) (bs : List Byte) (a : Word) :
    s.storeRange base bs = .error a ↔
      0 < bs.length ∧ 0x1000 < base.toNat + bs.length ∧ a.toNat = max base.toNat 0x1000 := by
  rw [← rangeFault_eq_some_iff]
  unfold State.storeRange
  cases h : rangeFault base bs.length <;> simp

/-- Everything a checked block read can do: it reads every byte, or it reports the lowest address out of range. -/
theorem State.loadRange_ok_iff (s : State) (base : Word) (n : Nat) (bs : List Byte) :
    s.loadRange base n = .ok bs ↔ (n = 0 ∨ base.toNat + n ≤ 0x1000) ∧ bs = s.peeks base.toNat n := by
  rw [← rangeFault_eq_none_iff]
  unfold State.loadRange
  cases rangeFault base n <;> simp [eq_comm]

theorem State.loadRange_error_iff (s : State) (base : Word) (n : Nat) (a : Word) :
    s.loadRange base n = .error a ↔ 0 < n ∧ 0x1000 < base.toNat + n ∧ a.toNat = max base.toNat 0x1000 := by
  rw [← rangeFault_eq_some_iff]
  unfold State.loadRange
  cases h : rangeFault base n <;> simp

end Sys2Proof.Machine
end

