-- ==== Sys2Proof/Laws/Registers.lean ====
section
/-! SUPPORT. Registers, the stack, the keys: what their operations can do. -/

namespace Sys2Proof.Machine

/-! ## Registers -/

@[simp] theorem State.reg_setReg (s : State) (x r : RegIdx) (b : Byte) :
    (s.setReg x b).reg r = if r = x then b else s.reg r := by
  simp only [State.reg, State.setReg, Fin.getElem_fin, Vector.getElem_set, Fin.ext_iff, eq_comm]

/-- Register files that read alike are equal. -/
theorem State.v_ext {s t : State} (h : ∀ r, t.reg r = s.reg r) : t.v = s.v := by
  apply Vector.ext
  intro k hk
  exact h ⟨k, hk⟩

@[simp] theorem State.reg_drawn (s : State) (f : FrameBuf) (b : Bool) (r : RegIdx) :
    (s.drawn f b).reg r = if r = 15 then flagByte b else s.reg r := State.reg_setReg s 15 r (flagByte b)

/-- The flagged write of 41_alu.md R121: the flag wins when VF is the destination. -/
theorem State.reg_writeFlagged {s : State} {x y : RegIdx} (h : s.vfHavoc x y = false) (v f : Byte) (r : RegIdx) :
    (s.writeFlagged x y v f).reg r = if r = 15 then f else if r = x then v else s.reg r := by
  simp [State.writeFlagged, h]

/-- The flagged write of 41_alu.md R122. -/
theorem State.reg_writeFlagged_havoc {s : State} {x y : RegIdx} (h : s.vfHavoc x y = true) (v f : Byte) (r : RegIdx) :
    (s.writeFlagged x y v f).reg r =
      if r = 15 then s.draws.havocFlag else if r = x then s.draws.havocReg else s.reg r := by
  simp [State.writeFlagged, h]

theorem State.vfHavoc_eq_true_iff (s : State) (x y : RegIdx) :
    s.vfHavoc x y = true ↔ s.cfg.vfCorner = .havoc ∧ (x = 15 ∨ y = 15) := by simp [State.vfHavoc]

theorem State.vfHavoc_eq_false_iff (s : State) (x y : RegIdx) :
    s.vfHavoc x y = false ↔ s.cfg.vfCorner = .latched ∨ (x ≠ 15 ∧ y ≠ 15) := by
  unfold State.vfHavoc
  cases s.cfg.vfCorner <;> simp

@[simp] theorem State.regsUpTo_length (s : State) (x : RegIdx) : (s.regsUpTo x).length = x.val + 1 := by
  simp [State.regsUpTo]

theorem State.regsUpTo_getElem (s : State) (x : RegIdx) (k : Nat) (h : k < (s.regsUpTo x).length) :
    (s.regsUpTo x)[k] = s.reg ⟨k, by have := x.isLt; simp at h; omega⟩ := by
  simp [State.regsUpTo, State.reg]

theorem setRegsFrom_getElem (v : Regs) (k : Nat) (bs : List Byte) (r : Nat) (hr : r < 16) :
    (setRegsFrom v k bs)[r] = if h : k ≤ r ∧ r < k + bs.length then bs[r - k] else v[r] := by
  induction bs generalizing v k with
  | nil =>
    have : ¬ (k ≤ r ∧ r < k) := by omega
    simp [setRegsFrom, this]
  | cons b bs ih =>
    rw [setRegsFrom, ih, Vector.getElem_setIfInBounds]
    by_cases h1 : k = r
    · subst h1
      have : ¬ k + 1 ≤ k := by omega
      simp [this]
    · by_cases h2 : k + 1 ≤ r ∧ r < k + 1 + bs.length
      · have h3 : k ≤ r ∧ r < k + (b :: bs).length := by simp; omega
        have h4 : r - k = (r - (k + 1)) + 1 := by omega
        simp only [dif_pos h2, dif_pos h3, h4, List.getElem_cons_succ]
      · have h3 : ¬ (k ≤ r ∧ r < k + (b :: bs).length) := by simp; omega
        rw [dif_neg h2, dif_neg h3, if_neg h1]

/-! ## Stack -/

theorem State.push_eq_some_iff (s t : State) (a : Word) :
    s.push a = some t ↔ s.stack.length < stackDepth ∧ t = { s with stack := s.stack ++ [a] } := by
  unfold State.push State.sp
  split <;> simp_all [eq_comm]

theorem State.push_eq_none_iff (s : State) (a : Word) : s.push a = none ↔ stackDepth ≤ s.stack.length := by
  unfold State.push State.sp
  split <;> simp_all

theorem State.pop_eq_some_iff (s t : State) (a : Word) :
    s.pop = some (a, t) ↔ s.stack = t.stack ++ [a] ∧ t = { s with stack := t.stack } := by
  unfold State.pop
  cases h : s.stack.getLast? with
  | none =>
    simp only [reduceCtorEq, false_iff, not_and]
    intro e; simp [e] at h
  | some b =>
    have hs := List.dropLast_append_getLast? b h
    simp only [Option.some.injEq, Prod.mk.injEq]
    constructor
    · rintro ⟨rfl, rfl⟩; exact ⟨hs.symm, rfl⟩
    · rintro ⟨e, et⟩
      rw [e] at h hs
      simp only [List.getLast?_concat, Option.some.injEq] at h
      refine ⟨h.symm, ?_⟩
      rw [et, e]; simp

theorem State.pop_eq_none_iff (s : State) : s.pop = none ↔ s.stack = [] := by
  rw [← List.getLast?_eq_none_iff]
  unfold State.pop
  cases s.stack.getLast? <;> simp

/-! ## Keys -/

theorem mem_keysDown (k : BitVec 16) (j : RegIdx) : j ∈ keysDown k ↔ k.getLsbD j = true := by
  simp [keysDown]

theorem pickKey_eq_none_iff (k : BitVec 16) (p : Nat) : pickKey k p = none ↔ ∀ j : RegIdx, k.getLsbD j = false := by
  have key : pickKey k p = none ↔ keysDown k = [] := by
    unfold pickKey
    cases h : keysDown k with
    | nil => simp
    | cons a l => simpa using Nat.le_of_lt_succ (Nat.mod_lt p (Nat.succ_pos l.length))
  rw [key, List.eq_nil_iff_forall_not_mem]
  simp [mem_keysDown]

theorem pickKey_down {k : BitVec 16} {p : Nat} {j : RegIdx} (h : pickKey k p = some j) : k.getLsbD j = true :=
  (mem_keysDown k j).1 (List.mem_of_getElem? h)

/-- Every key that is down is picked by some free value (44_timers_keys.md R193). -/
theorem exists_pickKey {k : BitVec 16} {j : RegIdx} (h : k.getLsbD j = true) : ∃ p, pickKey k p = some j := by
  obtain ⟨n, hn, e⟩ := List.getElem_of_mem ((mem_keysDown k j).2 h)
  exact ⟨n, by unfold pickKey; rw [Nat.mod_eq_of_lt hn, List.getElem?_eq_getElem hn, e]⟩

end Sys2Proof.Machine
end

