-- ==== Sys2Proof/Laws/FrameBuf.lean ====
section
/-! SUPPORT. The framebuffer: cells, toggles, sprites. -/

namespace Sys2Proof.Machine

theorem FrameBuf.cell_of_ge (f : FrameBuf) (c : Nat) (h : 4096 ≤ c) : FrameBuf.cell f c = false := by
  have : 64 ≤ c / 64 := by omega
  simp [FrameBuf.cell, FrameBuf.row, this]

/-- Framebuffers with the same cells are equal. -/
theorem FrameBuf.ext {f g : FrameBuf} (h : ∀ c, c < 4096 → FrameBuf.cell f c = FrameBuf.cell g c) : f = g := by
  apply Vector.ext
  intro r hr
  apply BitVec.eq_of_getLsbD_eq
  intro k hk
  have := h (64 * r + k) (by omega)
  have e1 : (64 * r + k) / 64 = r := by omega
  have e2 : (64 * r + k) % 64 = k := by omega
  simpa [FrameBuf.cell, FrameBuf.row, e1, e2, hr] using this

@[simp] theorem FrameBuf.cell_blank (c : Nat) : FrameBuf.cell FrameBuf.blank c = false := by
  unfold FrameBuf.cell FrameBuf.row FrameBuf.blank
  by_cases h : c / 64 < 64 <;> simp [h]

theorem FrameBuf.cell_toggle (f : FrameBuf) {c : Nat} (hc : c < 4096) (d : Nat) :
    FrameBuf.cell (FrameBuf.toggle f c) d = (FrameBuf.cell f d ^^ decide (d = c)) := by
  have hr : c / 64 < 64 := by omega
  unfold FrameBuf.cell FrameBuf.toggle FrameBuf.row
  by_cases h : c / 64 = d / 64
  · rw [Vector.getElem?_setIfInBounds, if_pos h, if_pos hr]
    have e : decide (d = c) = decide (c % 64 = d % 64) := by
      apply decide_eq_decide.2; omega
    have hm : d % 64 < 64 := Nat.mod_lt _ (by decide)
    rw [e, h]
    simp [hm, eq_comm]
  · rw [Vector.getElem?_setIfInBounds_ne h]
    have e : decide (d = c) = false := by
      apply decide_eq_false; intro e; exact h (by rw [e])
    rw [e, Bool.xor_false]

/-- What a draw does to one cell: it toggles it exactly when the cell is among the sprite's cells. -/
theorem drawCells_cell {cs : List Nat} (hb : ∀ c ∈ cs, c < 4096) (hn : cs.Nodup) (p : FrameBuf × Bool) (d : Nat) :
    FrameBuf.cell (drawCells cs p).1 d = (FrameBuf.cell p.1 d ^^ decide (d ∈ cs)) := by
  induction cs generalizing p with
  | nil => simp [drawCells]
  | cons c cs ih =>
    obtain ⟨hc, hn⟩ := List.nodup_cons.1 hn
    have hb' : ∀ c ∈ cs, c < 4096 := fun c h => hb c (List.mem_cons_of_mem _ h)
    rw [drawCells, List.foldl_cons, ← drawCells, ih hb' hn]
    simp only [FrameBuf.cell_toggle _ (hb c List.mem_cons_self), List.mem_cons]
    by_cases h1 : d = c
    · subst h1; simp [hc]
    · simp [h1]

/-- When a draw reports a collision: some cell of the sprite was set before. -/
theorem drawCells_hit {cs : List Nat} (hb : ∀ c ∈ cs, c < 4096) (hn : cs.Nodup) (p : FrameBuf × Bool) :
    (drawCells cs p).2 = (p.2 || cs.any (fun c => FrameBuf.cell p.1 c)) := by
  induction cs generalizing p with
  | nil => simp [drawCells]
  | cons c cs ih =>
    obtain ⟨hc, hn⟩ := List.nodup_cons.1 hn
    have hb' : ∀ c ∈ cs, c < 4096 := fun c h => hb c (List.mem_cons_of_mem _ h)
    rw [drawCells, List.foldl_cons, ← drawCells, ih hb' hn]
    have e : (cs.any fun d => FrameBuf.cell (FrameBuf.toggle p.1 c) d) = cs.any fun d => FrameBuf.cell p.1 d := by
      apply Bool.eq_iff_iff.2
      simp only [List.any_eq_true, FrameBuf.cell_toggle _ (hb c List.mem_cons_self)]
      refine exists_congr fun d => and_congr_right fun hd => ?_
      have : d ≠ c := fun e => hc (e ▸ hd)
      simp [this]
    simp only [e, List.any_cons, Bool.or_assoc]

/-! ## Sprites -/

theorem mem_rowCells (C x y : Nat) (b : Byte) (c : Nat) :
    c ∈ rowCells C x y b ↔ ∃ col, col < 8 ∧ b.getLsbD (7 - col) = true ∧ c = ((x + col) + y * 64) % C := by
  unfold rowCells
  simp only [List.mem_map, List.mem_filter, List.mem_range, and_assoc]
  exact exists_congr fun col => and_congr_right fun _ => and_congr_right fun _ => eq_comm

/-- The cells of a sprite: one for each set bit of each row (43_display.md R172). -/
theorem mem_spriteCells (C x y : Nat) (rows : List Byte) (c : Nat) :
    c ∈ spriteCells C x y rows ↔
      ∃ row col, ∃ h : row < rows.length, col < 8 ∧ rows[row].getLsbD (7 - col) = true ∧
        c = ((x + col) + (y + row) * 64) % C := by
  induction rows generalizing y with
  | nil => simp [spriteCells]
  | cons b rows ih =>
    simp only [spriteCells, List.mem_append, mem_rowCells, ih]
    constructor
    · rintro (⟨col, h1, h2, h3⟩ | ⟨row, col, h0, h1, h2, h3⟩)
      · exact ⟨0, col, by simp, h1, by simpa using h2, by simpa using h3⟩
      · refine ⟨row + 1, col, by simpa using h0, h1, by simpa using h2, ?_⟩
        rw [h3]; congr 3; omega
    · rintro ⟨row, col, h0, h1, h2, h3⟩
      cases row with
      | zero => exact .inl ⟨col, h1, by simpa using h2, by simpa using h3⟩
      | succ row =>
        refine .inr ⟨row, col, by simpa using h0, h1, by simpa using h2, ?_⟩
        rw [h3]; congr 3; omega

theorem spriteCells_lt {C x y : Nat} (hC : 0 < C) {rows : List Byte} {c : Nat} (h : c ∈ spriteCells C x y rows) :
    c < C := by
  obtain ⟨_, _, _, _, _, rfl⟩ := (mem_spriteCells ..).1 h
  exact Nat.mod_lt _ hC

theorem mod_ne_of_close {C a b : Nat} (h1 : a < b) (h2 : b < a + C) : a % C ≠ b % C := by
  intro h
  have hd : C ∣ b - a := (Nat.modEq_iff_dvd' (Nat.le_of_lt h1)).1 h
  have := Nat.le_of_dvd (by omega) hd
  omega

/-- No cell is toggled twice in one draw (43_display.md R172, corner case). -/
theorem spriteCells_nodup {C : Nat} (hC : 2048 ≤ C) (x y : Nat) (rows : List Byte) (hr : rows.length ≤ 16) :
    (spriteCells C x y rows).Nodup := by
  have row_nodup : ∀ y b, (rowCells C x y b).Nodup := by
    intro y b
    unfold rowCells
    refine List.Nodup.map_on ?_ (List.nodup_range.filter _)
    intro i hi j hj e
    have hi := List.mem_range.1 (List.mem_of_mem_filter hi)
    have hj := List.mem_range.1 (List.mem_of_mem_filter hj)
    rcases Nat.lt_trichotomy i j with h | h | h
    · exact absurd e (mod_ne_of_close (by omega) (by omega))
    · exact h
    · exact absurd e.symm (mod_ne_of_close (by omega) (by omega))
  induction rows generalizing y with
  | nil => simp [spriteCells]
  | cons b rows ih =>
    simp only [List.length_cons] at hr
    refine List.nodup_append.2 ⟨row_nodup y b, ih (y + 1) (by omega), ?_⟩
    intro c hc d hd e
    obtain ⟨i, hi, -, rfl⟩ := (mem_rowCells ..).1 hc
    obtain ⟨row, j, h0, hj, -, rfl⟩ := (mem_spriteCells ..).1 hd
    exact absurd e (mod_ne_of_close (by nlinarith) (by nlinarith))

theorem State.cells_cases (s : State) : s.cells = 2048 ∧ s.hires = false ∨ s.cells = 4096 ∧ s.hires = true := by
  unfold State.cells; cases s.hires <;> simp

/-- What drawing a sprite does to one cell (43_display.md R172). -/
theorem State.drawSprite_cell (s : State) (x y : RegIdx) {rows : List Byte} (hr : rows.length ≤ 16) (c : Nat) :
    FrameBuf.cell (s.drawSprite x y rows).1 c =
      (FrameBuf.cell s.fb c ^^ decide (c ∈ spriteCells s.cells (s.reg x).toNat (s.reg y).toNat rows)) := by
  have hC : 2048 ≤ s.cells ∧ s.cells ≤ 4096 := by rcases s.cells_cases with ⟨h, _⟩ | ⟨h, _⟩ <;> omega
  refine drawCells_cell (fun c h => ?_) (spriteCells_nodup hC.1 _ _ _ hr) _ c
  have := spriteCells_lt (by omega) h
  omega

/-- When drawing a sprite reports a collision (43_display.md R172). -/
theorem State.drawSprite_hit (s : State) (x y : RegIdx) {rows : List Byte} (hr : rows.length ≤ 16) :
    (s.drawSprite x y rows).2 =
      (spriteCells s.cells (s.reg x).toNat (s.reg y).toNat rows).any (fun c => FrameBuf.cell s.fb c) := by
  have hC : 2048 ≤ s.cells ∧ s.cells ≤ 4096 := by rcases s.cells_cases with ⟨h, _⟩ | ⟨h, _⟩ <;> omega
  refine (drawCells_hit (fun c h => ?_) (spriteCells_nodup hC.1 _ _ _ hr) _).trans (by simp)
  have := spriteCells_lt (by omega) h
  omega

theorem havocRows_cell (n : Nat) (free old : FrameBuf) (c : Nat) :
    FrameBuf.cell (havocRows n free old) c = if c / 64 < n then FrameBuf.cell free c else FrameBuf.cell old c := by
  unfold FrameBuf.cell FrameBuf.row havocRows
  by_cases h : c / 64 < 64
  · by_cases h2 : c / 64 < n <;> simp [h, h2]
  · have : 64 ≤ c / 64 := by omega
    simp [this]

end Sys2Proof.Machine
end

