-- ==== Sys2Proof/Laws/Step.lean ====
section
/-! SUPPORT. What the fetch, a halt and a step can do. -/

namespace Sys2Proof.Machine

/-! ## Fetch and decode -/

theorem State.memRead_of_lt {s : State} {a : Nat} (h : a < 0x1000) : s.memRead a = .ok (s.peek a) := if_pos h

theorem State.memRead_of_ge {s : State} {a : Nat} (h : 0x1000 ≤ a) : s.memRead a = .error (BitVec.ofNat 16 a) :=
  if_neg (by omega)

/-- The fetch of two bytes of memory, high byte first (20_memory.md R65). -/
theorem State.fetch_of_lt {s : State} (h : s.pc.toNat + 1 < 0x1000) :
    s.fetch = .ok (bigEndian (s.peek s.pc.toNat) (s.peek (s.pc.toNat + 1))) := by
  unfold State.fetch
  rw [State.memRead_of_lt (by omega), State.memRead_of_lt h]

theorem State.atEnd_eq_true_iff (s : State) : s.atEnd = true ↔ 0x200 + s.progLen ≤ s.pc.toNat := by
  simp [State.atEnd]

theorem State.atEnd_eq_false_iff (s : State) : s.atEnd = false ↔ s.pc.toNat < 0x200 + s.progLen := by
  simp [State.atEnd]

theorem State.Fetches.fetch_eq {s : State} {w : Word} (h : s.Fetches w) : s.clearPulses.fetch = .ok w := by
  rw [State.fetch_of_lt (by simpa using h.inMemory)]
  simp [h.high, h.low]

theorem State.Fetches.atEnd_eq {s : State} {w : Word} (h : s.Fetches w) : s.clearPulses.atEnd = false := by
  rw [State.atEnd_eq_false_iff]; simpa using h.loaded

@[simp] theorem State.clearPulses_isSentinel (s : State) (w : Word) : s.clearPulses.isSentinel w = s.isSentinel w := rfl

@[simp] theorem State.clearPulses_executedWord (s : State) (w : Word) :
    s.clearPulses.executedWord w = s.executedWord w := rfl

/-- What the checks before Execute decide when two bytes are fetched (60_exceptions.md R214). -/
theorem State.Fetches.fetchDecode_eq {s : State} {w : Word} (h : s.Fetches w) :
    s.clearPulses.fetchDecode =
      match decode (s.executedWord w) with
      | .unknown => .halt .unknownInstruction (s.executedWord w)
      | .ambiguous => .ambiguous (s.executedWord w)
      | .instr i => .run (s.executedWord w) i (s.clearPulses.sniff w) := by
  unfold State.fetchDecode
  rw [h.atEnd_eq, h.fetch_eq]
  rfl

theorem State.executedWord_of_ne {s : State} {w : Word} (h : ¬ (s.pc = 0x200 ∧ w = 0x1260)) : s.executedWord w = w := by
  have e : s.isSentinel w = false := decide_eq_false h
  simp [State.executedWord, e]

/-- Everything the checks before Execute can decide (60_exceptions.md R214). -/
theorem State.fetchDecode_run_iff {s t : State} {w : Word} {i : Instr} :
    s.fetchDecode = .run w i t ↔
      s.atEnd = false ∧ ∃ w', s.fetch = .ok w' ∧ w = s.executedWord w' ∧ decode w = .instr i ∧ t = s.sniff w' := by
  unfold State.fetchDecode
  cases s.atEnd <;> simp
  cases s.fetch with
  | error a => simp
  | ok w' =>
    simp only [Except.ok.injEq, exists_eq_left']
    constructor
    · intro h
      split at h <;> simp_all
    · rintro ⟨rfl, h, rfl⟩
      rw [h]

/-- A halt before Execute is one of three (60_exceptions.md R214). -/
theorem State.fetchDecode_halt {s : State} {r : HaltReason} {a : Word} (h : s.fetchDecode = .halt r a) :
    (r = .endOfProgram ∧ s.atEnd = true ∧ a = s.pc) ∨
      (r = .memoryBounds ∧ s.atEnd = false ∧ s.fetch = .error a) ∨
      (r = .unknownInstruction ∧ s.atEnd = false ∧ ∃ w, s.fetch = .ok w ∧ a = s.executedWord w ∧ decode a = .unknown) := by
  unfold State.fetchDecode at h
  cases hE : s.atEnd with
  | true => simp [hE] at h; simp [h.1, h.2]
  | false =>
    simp only [hE, Bool.false_eq_true, if_false] at h
    cases hF : s.fetch with
    | error b => simp [hF] at h; simp [h.1, h.2]
    | ok w =>
      simp only [hF] at h
      split at h <;> simp_all

/-! ## Halts -/

/-- A raised halt that answers a next state is a clean halt, and its state is the halt entry (60_exceptions.md R211, R215). -/
theorem raiseHalt_next_iff {s t : State} {r : HaltReason} {a : Word} :
    raiseHalt s r a = .next t ↔ r.fatal = false ∧ t = s.haltEntry r a := by
  cases r <;> simp [raiseHalt, HaltReason.fatal, eq_comm]

theorem raiseHalt_ne_refused {s : State} {r : HaltReason} {a : Word} {e : Refusal} : raiseHalt s r a ≠ .refused e := by
  cases r <;> simp [raiseHalt]

/-- A raised halt that faults is a fatal halt, and the fault stands for it (StackUnderflow records 0). -/
theorem raiseHalt_fault {s : State} {r : HaltReason} {a : Word} {f : Fault} (h : raiseHalt s r a = .fault f) :
    r.fatal = true ∧ f.halt? = some (r, if r = .stackUnderflow then 0 else a) := by
  cases r <;> simp_all [raiseHalt, HaltReason.fatal] <;> subst h <;> simp [Fault.halt?]

/-! ## Step -/

theorem finishStep_next_iff {r : Result} {t : State} : finishStep r = .next t ↔ ∃ u, r = .next u ∧ t = u.finish := by
  cases r <;> simp [finishStep, eq_comm]

theorem step_running {s : State} (h : s.runState = .running) :
    step s =
      match s.clearPulses.fetchDecode with
      | .halt reason info => raiseHalt s reason info
      | .ambiguous w => .refused (.dispatchAmbiguous w)
      | .run _ i t => finishStep (exec i t) := by
  unfold step; simp only [h] <;> rfl

/-- A step that fetches and decodes an instruction runs it. -/
theorem State.Fetches.step_eq {s : State} {w : Word} {i : Instr} (h : s.Fetches w)
    (hd : decode (s.executedWord w) = .instr i) : step s = finishStep (exec i (s.clearPulses.sniff w)) := by
  rw [step_running h.running, h.fetchDecode_eq, hd]

theorem State.executedWord_eq (s : State) (w : Word) :
    s.executedWord w = if s.pc = 0x200 ∧ w = 0x1260 then 0x12C0 else w := by
  unfold State.executedWord State.isSentinel
  by_cases h : s.pc = 0x200 ∧ w = 0x1260 <;> simp_all [hiresSentinel]

theorem State.sniff_eq_start (s : State) (w : Word) : s.clearPulses.sniff w = s.start w := by
  unfold State.start
  by_cases h : s.pc = 0x200 ∧ w = 0x1260
  · have e : s.clearPulses.isSentinel w = true := decide_eq_true h
    simp only [State.sniff, e, if_true, decide_eq_true h, Bool.or_true]
    rfl
  · have e : s.clearPulses.isSentinel w = false := decide_eq_false h
    simp only [State.sniff, e, Bool.false_eq_true, if_false, decide_eq_false h, Bool.or_false]
    rfl

/-- A step that fetches a decodable word runs its instruction, and nothing else (10_state.md R51). -/
theorem State.Runs.step_eq {s : State} {w : Word} {i : Instr} (h : s.Runs w i) :
    step s = finishStep (exec i (s.start w)) := by
  rw [h.fetches.step_eq (by rw [s.executedWord_eq]; exact h.decodes), s.sniff_eq_start]

/-- Everything a step that answers a next state can have done: run an instruction to its end, or halt cleanly. -/
theorem step_next {s t : State} (h : step s = .next t) :
    s.runState = .running ∧
      ((∃ w i u v, s.clearPulses.fetchDecode = .run w i u ∧ exec i u = .next v ∧ t = v.finish) ∨
        ∃ r a, s.clearPulses.fetchDecode = .halt r a ∧ r.fatal = false ∧ t = s.haltEntry r a) := by
  have hr : s.runState = .running := by
    unfold step at h
    split at h
    · simp at h
    · simp at h
    · assumption
  refine ⟨hr, ?_⟩
  rw [step_running hr] at h
  split at h
  · rename_i r a e
    exact .inr ⟨r, a, e, raiseHalt_next_iff.1 h⟩
  · simp at h
  · rename_i w i u e
    obtain ⟨v, hv, rfl⟩ := finishStep_next_iff.1 h
    exact .inl ⟨w, i, u, v, e, hv, rfl⟩

end Sys2Proof.Machine
end

