-- ==== Sys2Proof/Laws/Load.lean ====
section
/-! SUPPORT. LOAD, and the placing of one word. -/

namespace Sys2Proof.Machine

@[simp] theorem State.cleared_v (s : State) : s.cleared.v = Vector.replicate 16 0 := rfl
@[simp] theorem State.cleared_i (s : State) : s.cleared.i = 0 := rfl
@[simp] theorem State.cleared_pc (s : State) : s.cleared.pc = 0x200 := rfl
@[simp] theorem State.cleared_stack (s : State) : s.cleared.stack = [] := rfl
@[simp] theorem State.cleared_dt (s : State) : s.cleared.dt = 0 := rfl
@[simp] theorem State.cleared_st (s : State) : s.cleared.st = 0 := rfl
@[simp] theorem State.cleared_fb (s : State) : s.cleared.fb = FrameBuf.blank := rfl
@[simp] theorem State.cleared_hires (s : State) : s.cleared.hires = false := rfl
@[simp] theorem State.cleared_mem (s : State) : s.cleared.mem = [] := rfl
@[simp] theorem State.cleared_progLen (s : State) : s.cleared.progLen = 0 := rfl
@[simp] theorem State.cleared_gameLoaded (s : State) : s.cleared.gameLoaded = false := rfl
@[simp] theorem State.cleared_runState (s : State) : s.cleared.runState = .notLoaded := rfl
@[simp] theorem State.cleared_beep (s : State) : s.cleared.beep = false := rfl
@[simp] theorem State.cleared_drawRequest (s : State) : s.cleared.drawRequest = false := rfl
@[simp] theorem State.cleared_draws (s : State) : s.cleared.draws = Config.freeDraws s.drawCount := rfl
@[simp] theorem State.cleared_drawCount (s : State) : s.cleared.drawCount = s.drawCount + 1 := rfl
@[simp] theorem State.cleared_cfg (s : State) : s.cleared.cfg = s.cfg := rfl

@[simp] theorem State.reg_cleared (s : State) (r : RegIdx) : s.cleared.reg r = 0 := by
  simp [State.reg]

@[simp] theorem State.peek_cleared (s : State) (a : Nat) : s.cleared.peek a = unlisted s.cfg.font a := rfl

theorem unlisted_of_lt (f : Font) {a : Nat} (h : a < 80) : unlisted f a = f[a] := by simp [unlisted, h]

theorem unlisted_of_ge (f : Font) {a : Nat} (h : 80 ≤ a) : unlisted f a = 0 := by simp [unlisted, h]

theorem State.load_none (s : State) : s.load none = s.cleared := rfl

theorem State.load_of_bad (s : State) {bytes : List Byte} (h : bytes.length = 0 ∨ 3584 < bytes.length) :
    s.load (some bytes) = s.cleared := by
  have e : imageOk bytes.length = false := by
    unfold imageOk maxImage; exact decide_eq_false (by omega)
  simp [State.load, e]

theorem State.load_of_ok (s : State) {bytes : List Byte} (h1 : 1 ≤ bytes.length) (h2 : bytes.length ≤ 3584) :
    s.load (some bytes) =
      { s.cleared.pokes 0x200 bytes with progLen := bytes.length, gameLoaded := true, runState := .running } := by
  have e : imageOk bytes.length = true := by
    unfold imageOk maxImage; exact decide_eq_true ⟨h1, h2⟩
  simp [State.load, e]

theorem State.placeAt_lt (s : State) : s.placeAt.toNat < 0xFFF := by
  unfold State.placeAt
  split
  · assumption
  · decide

/-- The word placed for the host's questions is the word the next step fetches. -/
theorem State.placeWord_fetches (s : State) (w : Word) : (s.placeWord w).Fetches w := by
  have := s.placeAt_lt
  refine ⟨rfl, ?_, ?_, ?_, ?_⟩
  · show s.placeAt.toNat < 0x200 + max s.progLen (max 1 (s.placeAt.toNat + 2 - 0x200)); omega
  · show s.placeAt.toNat + 1 < 0x1000; omega
  · exact s.peek_pokes_inside s.placeAt.toNat [hiByte w, loByte w] 0 (by simp)
  · exact s.peek_pokes_inside s.placeAt.toNat [hiByte w, loByte w] 1 (by simp)

end Sys2Proof.Machine
end

