-- ==== Sys2Proof/Laws/PerInstr.lean ====
section
/-! SUPPORT. Per instruction: its word has the fixed bits of its row of the opcode map (30_encoding.md R86). -/

namespace Sys2Proof.Laws

/-- The encoded word of a well-formed instruction belongs to a row of the opcode map with the instruction's mnemonic. -/
def RowBits.Statement (i : Instr) : Prop :=
  i.wf = true → ∃ r ∈ opcodeRows, r.mnemonic = i.mnemonic ∧ r.holds (encode i) = true

theorem holds_of_toNat {r : OpcodeRow} {w : Word} (h : (w &&& r.mask).toNat = r.value.toNat) : r.holds w = true := by
  simp [OpcodeRow.holds, BitVec.eq_of_toNat_eq h]

theorem holds_NNN {m : String} {v : Word} {f : Nat} {nnn : Word} (hf : f < 16) (h : Instr.addrOk nnn = true)
    (hv : v.toNat = f * 0x1000) : (OpcodeRow.mk m v 0xF000).holds (wordNNN f nnn) = true := by
  have h : nnn.toNat < 0x1000 := of_decide_eq_true h
  apply holds_of_toNat
  rw [and_F000_toNat, wordNNN_toNat hf h, hv]; omega

theorem holds_XNN {m : String} {v : Word} {f : Nat} (x : RegIdx) (nn : Byte) (hf : f < 16)
    (hv : v.toNat = f * 0x1000) : (OpcodeRow.mk m v 0xF000).holds (wordXNN f x nn) = true := by
  have := x.isLt
  have := nn.isLt
  apply holds_of_toNat
  rw [and_F000_toNat, wordXNN_toNat x nn hf, hv]; omega

theorem holds_X {m : String} {v : Word} {f : Nat} (x : RegIdx) (nn : Byte) (hf : f < 16)
    (hv : v.toNat = f * 0x1000 + nn.toNat) : (OpcodeRow.mk m v 0xF0FF).holds (wordXNN f x nn) = true := by
  have := x.isLt
  have := nn.isLt
  apply holds_of_toNat
  rw [and_F0FF_toNat, wordXNN_toNat x nn hf, hv]; omega

theorem holds_XYN {m : String} {v : Word} {f n : Nat} (x y : RegIdx) (hf : f < 16) (hn : n < 16)
    (hv : v.toNat = f * 0x1000 + n) : (OpcodeRow.mk m v 0xF00F).holds (nibbles f x y n) = true := by
  have := x.isLt
  have := y.isLt
  apply holds_of_toNat
  rw [and_F00F_toNat, nibbles_toNat hf x.isLt y.isLt hn, hv]; omega

theorem holds_DRW {m : String} {v : Word} {f n : Nat} (x y : RegIdx) (hf : f < 16) (hn : n < 16)
    (hv : v.toNat = f * 0x1000) : (OpcodeRow.mk m v 0xF000).holds (nibbles f x y n) = true := by
  have := x.isLt
  have := y.isLt
  apply holds_of_toNat
  rw [and_F000_toNat, nibbles_toNat hf x.isLt y.isLt hn, hv]; omega

theorem rowBits_of_holds {i : Instr} (r : OpcodeRow) (hr : r ∈ opcodeRows) (hm : r.mnemonic = i.mnemonic)
    (h : r.holds (encode i) = true) : RowBits.Statement i := fun _ => ⟨r, hr, hm, h⟩

theorem RowBits.cls : RowBits.Statement .cls :=
  rowBits_of_holds ⟨"CLS", 0x00E0, 0xFFFF⟩ (by decide) rfl (by decide)

theorem RowBits.ret : RowBits.Statement .ret :=
  rowBits_of_holds ⟨"RET", 0x00EE, 0xFFFF⟩ (by decide) rfl (by decide)

theorem RowBits.jp (nnn : Word) : RowBits.Statement (.jp nnn) := fun h =>
  ⟨⟨"JP", 0x1000, 0xF000⟩, by decide, rfl, holds_NNN (by decide) h (by decide)⟩

theorem RowBits.call (nnn : Word) : RowBits.Statement (.call nnn) := fun h =>
  ⟨⟨"CALL", 0x2000, 0xF000⟩, by decide, rfl, holds_NNN (by decide) h (by decide)⟩

theorem RowBits.seImm (x : RegIdx) (nn : Byte) : RowBits.Statement (.seImm x nn) :=
  rowBits_of_holds ⟨"SE_imm", 0x3000, 0xF000⟩ (by decide) rfl (holds_XNN x nn (by decide) (by decide))

theorem RowBits.sneImm (x : RegIdx) (nn : Byte) : RowBits.Statement (.sneImm x nn) :=
  rowBits_of_holds ⟨"SNE_imm", 0x4000, 0xF000⟩ (by decide) rfl (holds_XNN x nn (by decide) (by decide))

theorem RowBits.seReg (x y : RegIdx) : RowBits.Statement (.seReg x y) :=
  rowBits_of_holds ⟨"SE_reg", 0x5000, 0xF00F⟩ (by decide) rfl (holds_XYN x y (by decide) (by decide) (by decide))

theorem RowBits.ldImm (x : RegIdx) (nn : Byte) : RowBits.Statement (.ldImm x nn) :=
  rowBits_of_holds ⟨"LD_imm", 0x6000, 0xF000⟩ (by decide) rfl (holds_XNN x nn (by decide) (by decide))

theorem RowBits.addImm (x : RegIdx) (nn : Byte) : RowBits.Statement (.addImm x nn) :=
  rowBits_of_holds ⟨"ADD_imm", 0x7000, 0xF000⟩ (by decide) rfl (holds_XNN x nn (by decide) (by decide))

theorem RowBits.ldReg (x y : RegIdx) : RowBits.Statement (.ldReg x y) :=
  rowBits_of_holds ⟨"LD_reg", 0x8000, 0xF00F⟩ (by decide) rfl (holds_XYN x y (by decide) (by decide) (by decide))

theorem RowBits.orReg (x y : RegIdx) : RowBits.Statement (.orReg x y) :=
  rowBits_of_holds ⟨"OR", 0x8001, 0xF00F⟩ (by decide) rfl (holds_XYN x y (by decide) (by decide) (by decide))

theorem RowBits.andReg (x y : RegIdx) : RowBits.Statement (.andReg x y) :=
  rowBits_of_holds ⟨"AND", 0x8002, 0xF00F⟩ (by decide) rfl (holds_XYN x y (by decide) (by decide) (by decide))

theorem RowBits.xorReg (x y : RegIdx) : RowBits.Statement (.xorReg x y) :=
  rowBits_of_holds ⟨"XOR", 0x8003, 0xF00F⟩ (by decide) rfl (holds_XYN x y (by decide) (by decide) (by decide))

theorem RowBits.addReg (x y : RegIdx) : RowBits.Statement (.addReg x y) :=
  rowBits_of_holds ⟨"ADD_reg", 0x8004, 0xF00F⟩ (by decide) rfl (holds_XYN x y (by decide) (by decide) (by decide))

theorem RowBits.sub (x y : RegIdx) : RowBits.Statement (.sub x y) :=
  rowBits_of_holds ⟨"SUB", 0x8005, 0xF00F⟩ (by decide) rfl (holds_XYN x y (by decide) (by decide) (by decide))

theorem RowBits.shr (x y : RegIdx) : RowBits.Statement (.shr x y) :=
  rowBits_of_holds ⟨"SHR", 0x8006, 0xF00F⟩ (by decide) rfl (holds_XYN x y (by decide) (by decide) (by decide))

theorem RowBits.subn (x y : RegIdx) : RowBits.Statement (.subn x y) :=
  rowBits_of_holds ⟨"SUBN", 0x8007, 0xF00F⟩ (by decide) rfl (holds_XYN x y (by decide) (by decide) (by decide))

theorem RowBits.shl (x y : RegIdx) : RowBits.Statement (.shl x y) :=
  rowBits_of_holds ⟨"SHL", 0x800E, 0xF00F⟩ (by decide) rfl (holds_XYN x y (by decide) (by decide) (by decide))

theorem RowBits.sneReg (x y : RegIdx) : RowBits.Statement (.sneReg x y) :=
  rowBits_of_holds ⟨"SNE_reg", 0x9000, 0xF00F⟩ (by decide) rfl (holds_XYN x y (by decide) (by decide) (by decide))

theorem RowBits.ldI (nnn : Word) : RowBits.Statement (.ldI nnn) := fun h =>
  ⟨⟨"LD_I", 0xA000, 0xF000⟩, by decide, rfl, holds_NNN (by decide) h (by decide)⟩

theorem RowBits.jpV0 (nnn : Word) : RowBits.Statement (.jpV0 nnn) := fun h =>
  ⟨⟨"JP_V0", 0xB000, 0xF000⟩, by decide, rfl, holds_NNN (by decide) h (by decide)⟩

theorem RowBits.rnd (x : RegIdx) (nn : Byte) : RowBits.Statement (.rnd x nn) :=
  rowBits_of_holds ⟨"RND", 0xC000, 0xF000⟩ (by decide) rfl (holds_XNN x nn (by decide) (by decide))

theorem RowBits.drw (x y : RegIdx) (n : Nat) : RowBits.Statement (.drw x y n) := fun h =>
  ⟨⟨"DRW", 0xD000, 0xF000⟩, by decide, rfl, holds_DRW x y (by decide) (of_decide_eq_true h) (by decide)⟩

theorem RowBits.skp (x : RegIdx) : RowBits.Statement (.skp x) :=
  rowBits_of_holds ⟨"SKP", 0xE09E, 0xF0FF⟩ (by decide) rfl (holds_X x _ (by decide) (by decide))

theorem RowBits.sknp (x : RegIdx) : RowBits.Statement (.sknp x) :=
  rowBits_of_holds ⟨"SKNP", 0xE0A1, 0xF0FF⟩ (by decide) rfl (holds_X x _ (by decide) (by decide))

theorem RowBits.ldVxDt (x : RegIdx) : RowBits.Statement (.ldVxDt x) :=
  rowBits_of_holds ⟨"LD_VX_DT", 0xF007, 0xF0FF⟩ (by decide) rfl (holds_X x _ (by decide) (by decide))

theorem RowBits.ldVxK (x : RegIdx) : RowBits.Statement (.ldVxK x) :=
  rowBits_of_holds ⟨"LD_VX_K", 0xF00A, 0xF0FF⟩ (by decide) rfl (holds_X x _ (by decide) (by decide))

theorem RowBits.ldDtVx (x : RegIdx) : RowBits.Statement (.ldDtVx x) :=
  rowBits_of_holds ⟨"LD_DT_VX", 0xF015, 0xF0FF⟩ (by decide) rfl (holds_X x _ (by decide) (by decide))

theorem RowBits.ldStVx (x : RegIdx) : RowBits.Statement (.ldStVx x) :=
  rowBits_of_holds ⟨"LD_ST_VX", 0xF018, 0xF0FF⟩ (by decide) rfl (holds_X x _ (by decide) (by decide))

theorem RowBits.addI (x : RegIdx) : RowBits.Statement (.addI x) :=
  rowBits_of_holds ⟨"ADD_I", 0xF01E, 0xF0FF⟩ (by decide) rfl (holds_X x _ (by decide) (by decide))

theorem RowBits.ldF (x : RegIdx) : RowBits.Statement (.ldF x) :=
  rowBits_of_holds ⟨"LD_F", 0xF029, 0xF0FF⟩ (by decide) rfl (holds_X x _ (by decide) (by decide))

theorem RowBits.ldB (x : RegIdx) : RowBits.Statement (.ldB x) :=
  rowBits_of_holds ⟨"LD_B", 0xF033, 0xF0FF⟩ (by decide) rfl (holds_X x _ (by decide) (by decide))

theorem RowBits.ldMemVx (x : RegIdx) : RowBits.Statement (.ldMemVx x) :=
  rowBits_of_holds ⟨"LD_MEM_VX", 0xF055, 0xF0FF⟩ (by decide) rfl (holds_X x _ (by decide) (by decide))

theorem RowBits.ldVxMem (x : RegIdx) : RowBits.Statement (.ldVxMem x) :=
  rowBits_of_holds ⟨"LD_VX_MEM", 0xF065, 0xF0FF⟩ (by decide) rfl (holds_X x _ (by decide) (by decide))

end Sys2Proof.Laws
end

