-- ==== Sys2Proof/Tests/Slice0.lean ====
section
/-! SUPPORT. Tests: expected results from 95_test_vectors.md (their ids are in the names' comments) and from the patterns of
30_encoding.md R86, and a witness for the hypotheses of each statement that has some. -/

namespace Sys2Proof.Tests

open Machine

/-! ## Helpers -/

/-- A loaded, running machine with nothing in its image but zeros, at PC = 0x200. -/
def base : State := { State.reset with progLen := 3584, gameLoaded := true, runState := .running }

/-- Registers set, in order. -/
def regs (l : List (RegIdx × Byte)) (s : State) : State := l.foldl (fun t p => t.setReg p.1 p.2) s

/-- One step that fetches `w` at PC. -/
def go (w : Word) (s : State) : Result := step (s.placeWord w)

/-- The result is a next state with the property. -/
def nextIs (r : Result) (p : State → Bool) : Bool :=
  match r with
  | .next t => p t
  | .fault _ => false
  | .refused _ => false

/-- The result is that fault. -/
def faultIs (r : Result) (f : Fault) : Bool :=
  match r with
  | .next _ => false
  | .fault g => g == f
  | .refused _ => false

/-- The result is that refusal. -/
def refusedIs (r : Result) (e : Refusal) : Bool :=
  match r with
  | .next _ => false
  | .fault _ => false
  | .refused g => g == e

theorem exists_next {r : Result} {p : State → Bool} (h : nextIs r p = true) : ∃ t, r = .next t ∧ p t = true := by
  cases r with
  | next t => exact ⟨t, rfl, h⟩
  | fault f => cases h
  | refused e => cases h

/-- The machine halted with that reason and information. -/
def haltedWith (reason : HaltReason) (info : Word) (t : State) : Bool := t.runState == .halted reason info

/-! ## Well-formedness: a term of each checked shape whose field is too wide is refused -/

theorem test_wf_jp : (Instr.jp 0xFFF).wf = true ∧ (Instr.jp 0x1000).wf = false := by decide
theorem test_wf_call : (Instr.call 0xFFF).wf = true ∧ (Instr.call 0x1000).wf = false := by decide
theorem test_wf_ldI : (Instr.ldI 0xFFF).wf = true ∧ (Instr.ldI 0x1000).wf = false := by decide
theorem test_wf_jpV0 : (Instr.jpV0 0xFFF).wf = true ∧ (Instr.jpV0 0x1000).wf = false := by decide
theorem test_wf_drw : (Instr.drw 0 0 15).wf = true ∧ (Instr.drw 0 0 16).wf = false := by decide

/-! ## Decoding: words written out from the patterns of 30_encoding.md R86 -/

theorem test_decode_cls : decode 0x00E0 = .instr .cls := by decide
theorem test_decode_ret : decode 0x00EE = .instr .ret := by decide
theorem test_decode_jp : decode 0x1234 = .instr (.jp 0x234) := by decide
theorem test_decode_call : decode 0x2FED = .instr (.call 0xFED) := by decide
theorem test_decode_seImm : decode 0x3A7F = .instr (.seImm 10 0x7F) := by decide
theorem test_decode_sneImm : decode 0x4B80 = .instr (.sneImm 11 0x80) := by decide
theorem test_decode_seReg : decode 0x5120 = .instr (.seReg 1 2) := by decide
theorem test_decode_ldImm : decode 0x6A05 = .instr (.ldImm 10 5) := by decide
theorem test_decode_addImm : decode 0x70FF = .instr (.addImm 0 0xFF) := by decide
theorem test_decode_ldReg : decode 0x8CD0 = .instr (.ldReg 12 13) := by decide
theorem test_decode_orReg : decode 0x8CD1 = .instr (.orReg 12 13) := by decide
theorem test_decode_andReg : decode 0x8CD2 = .instr (.andReg 12 13) := by decide
theorem test_decode_xorReg : decode 0x8CD3 = .instr (.xorReg 12 13) := by decide
theorem test_decode_addReg : decode 0x8CD4 = .instr (.addReg 12 13) := by decide
theorem test_decode_sub : decode 0x8CD5 = .instr (.sub 12 13) := by decide
theorem test_decode_shr : decode 0x8CD6 = .instr (.shr 12 13) := by decide
theorem test_decode_subn : decode 0x8CD7 = .instr (.subn 12 13) := by decide
theorem test_decode_shl : decode 0x8CDE = .instr (.shl 12 13) := by decide
theorem test_decode_sneReg : decode 0x9120 = .instr (.sneReg 1 2) := by decide
theorem test_decode_ldI : decode 0xA300 = .instr (.ldI 0x300) := by decide
theorem test_decode_jpV0 : decode 0xBFFF = .instr (.jpV0 0xFFF) := by decide
theorem test_decode_rnd : decode 0xC3F0 = .instr (.rnd 3 0xF0) := by decide
theorem test_decode_drw : decode 0xD125 = .instr (.drw 1 2 5) := by decide
theorem test_decode_skp : decode 0xE59E = .instr (.skp 5) := by decide
theorem test_decode_sknp : decode 0xE5A1 = .instr (.sknp 5) := by decide
theorem test_decode_ldVxDt : decode 0xFB07 = .instr (.ldVxDt 11) := by decide
theorem test_decode_ldVxK : decode 0xF00A = .instr (.ldVxK 0) := by decide
theorem test_decode_ldDtVx : decode 0xFA15 = .instr (.ldDtVx 10) := by decide
theorem test_decode_ldStVx : decode 0xF118 = .instr (.ldStVx 1) := by decide
theorem test_decode_addI : decode 0xF21E = .instr (.addI 2) := by decide
theorem test_decode_ldF : decode 0xF029 = .instr (.ldF 0) := by decide
theorem test_decode_ldB : decode 0xF033 = .instr (.ldB 0) := by decide
theorem test_decode_ldMemVx : decode 0xFF55 = .instr (.ldMemVx 15) := by decide
theorem test_decode_ldVxMem : decode 0xF265 = .instr (.ldVxMem 2) := by decide

/-- One word of each family, bit by bit: family, X, Y, N as four groups of four bits (30_encoding.md R81). -/
theorem test_decode_bits :
    decode (0b0001#4 ++ 0b0010#4 ++ 0b0011#4 ++ 0b0100#4) = .instr (.jp 0x234) ∧
    decode (0b1000#4 ++ 0b1010#4 ++ 0b1011#4 ++ 0b0111#4) = .instr (.subn 10 11) ∧
    decode (0b1010#4 ++ 0b1111#4 ++ 0b0000#4 ++ 0b0001#4) = .instr (.ldI 0xF01) ∧
    decode (0b1101#4 ++ 0b0001#4 ++ 0b0010#4 ++ 0b1111#4) = .instr (.drw 1 2 15) ∧
    decode (0b1110#4 ++ 0b0111#4 ++ 0b1001#4 ++ 0b1110#4) = .instr (.skp 7) ∧
    decode (0b1111#4 ++ 0b0110#4 ++ 0b0101#4 ++ 0b0101#4) = .instr (.ldMemVx 6) := by decide

/-- Vectors E3, E6, E8, E10, E12: unknown words. -/
theorem test_decode_unknown :
    decode 0x0123 = .unknown ∧ decode 0x00E1 = .unknown ∧ decode 0x0FFF = .unknown ∧
    decode 0x8008 = .unknown ∧ decode 0x8FFF = .unknown ∧ decode 0x800D = .unknown ∧
    decode 0xE19F = .unknown ∧ decode 0xF000 = .unknown ∧ decode 0xF0FF = .unknown ∧
    decode 0xF017 = .unknown := by decide

/-- Vectors E4, E5, E7, E10, E11: dispatch-ambiguous words. -/
theorem test_decode_ambiguous :
    decode 0x0000 = .ambiguous ∧ decode 0x01E0 = .ambiguous ∧ decode 0x00FE = .ambiguous ∧
    decode 0x0FFE = .ambiguous ∧ decode 0x5121 = .ambiguous ∧ decode 0x5FFF = .ambiguous ∧
    decode 0x912F = .ambiguous ∧ decode 0xE1AE = .ambiguous ∧ decode 0xE101 = .ambiguous ∧
    decode 0xE1FE = .ambiguous ∧ decode 0xE191 = .ambiguous := by decide

/-- No two rows of the opcode map hold of one word: some fixed bit of both differs. -/
theorem test_opcode_rows_disjoint :
    opcodeRows.Pairwise (fun r q => r.value &&& q.mask ≠ q.value &&& r.mask) := by decide

theorem test_opcode_rows_count : opcodeRows.length = 34 := by decide

theorem test_table_word : decodeTableWord 16 0x8AB5 = some (.sub 10 11) ∧ decodeTableWord 16 0x5121 = none := by decide

/-! ## Control flow -/

/-- F1. -/
theorem test_ret : nextIs (go 0x00EE { base with stack := [0x204], pc := 0x20C }) (fun t => t.pc == 0x206 && t.stack == []) := by
  decide
/-- F2: the fault, and the state the port interface gives: PC and DT as before the step. -/
theorem test_ret_empty :
    faultIs (go 0x00EE { base with pc := 0x20C, dt := 5 }) .stackUnderflow ∧
    nextIs (State.stepCommand ({ base with pc := 0x20C, dt := 5 }.placeWord 0x00EE))
      (fun t => haltedWith .stackUnderflow 0 t && t.pc == 0x20C && t.dt == 5 && t.haltReasonOut == 3) := by decide
/-- F3. -/
theorem test_jp : nextIs (go 0x1234 base) (fun t => t.pc == 0x234) := by decide
/-- F4. -/
theorem test_jp_zero : nextIs (go 0x1000 base) (fun t => t.pc == 0x000) := by decide
/-- F6. -/
theorem test_call : nextIs (go 0x2300 { base with pc := 0x204 }) (fun t => t.pc == 0x300 && t.stack == [0x204]) := by decide
/-- F7. -/
theorem test_call_full :
    faultIs (go 0x2300 { base with pc := 0x204, stack := List.replicate 16 0x208 }) (.stackOverflow 0x204) := by decide
/-- S7. -/
theorem test_seImm :
    nextIs (go 0x3310 (regs [(3, 0x10)] base)) (fun t => t.pc == 0x204) ∧
    nextIs (go 0x3311 (regs [(3, 0x10)] base)) (fun t => t.pc == 0x202) := by decide
/-- F9. -/
theorem test_sneImm :
    nextIs (go 0x4311 (regs [(3, 0x10)] base)) (fun t => t.pc == 0x204) ∧
    nextIs (go 0x4310 (regs [(3, 0x10)] base)) (fun t => t.pc == 0x202) := by decide
/-- F10, F12. -/
theorem test_seReg :
    nextIs (go 0x5120 (regs [(1, 7), (2, 7)] base)) (fun t => t.pc == 0x204) ∧
    nextIs (go 0x5120 (regs [(1, 7), (2, 8)] base)) (fun t => t.pc == 0x202) := by decide
/-- F12, F13. -/
theorem test_sneReg :
    nextIs (go 0x9120 (regs [(1, 7), (2, 8)] base)) (fun t => t.pc == 0x204) ∧
    nextIs (go 0x9110 (regs [(1, 7)] base)) (fun t => t.pc == 0x202) := by decide
/-- F14. -/
theorem test_jpV0 : nextIs (go 0xB300 (regs [(0, 4)] base)) (fun t => t.pc == 0x304) := by decide
/-- F15: no 12-bit mask. -/
theorem test_jpV0_high : nextIs (go 0xBFFF (regs [(0, 0xFF)] base)) (fun t => t.pc == 0x10FE) := by decide

/-! ## Loads and arithmetic -/

/-- A1. -/
theorem test_ldImm : nextIs (go 0x6A05 base) (fun t => t.reg 10 == 5 && t.pc == 0x202) := by decide
/-- A2. -/
theorem test_addImm : nextIs (go 0x7001 (regs [(0, 0xFF), (15, 0x55)] base)) (fun t => t.reg 0 == 0 && t.reg 15 == 0x55) := by
  decide
/-- A4. -/
theorem test_ldReg : nextIs (go 0x8010 (regs [(1, 0x33)] base)) (fun t => t.reg 0 == 0x33) := by decide
/-- A5. -/
theorem test_orReg :
    nextIs (go 0x8011 (regs [(0, 0xF0), (1, 0x0F), (15, 0x22)] base)) (fun t => t.reg 0 == 0xFF && t.reg 15 == 0x22) := by
  decide
/-- A6. -/
theorem test_andReg : nextIs (go 0x8012 (regs [(0, 0xF0), (1, 0x3C)] base)) (fun t => t.reg 0 == 0x30) := by decide
/-- A7. -/
theorem test_xorReg : nextIs (go 0x8013 (regs [(0, 0xFF), (1, 0x0F)] base)) (fun t => t.reg 0 == 0xF0) := by decide
/-- S4. -/
theorem test_addReg : nextIs (go 0x8014 (regs [(0, 0xFA), (1, 0x0A)] base)) (fun t => t.reg 0 == 4 && t.reg 15 == 1) := by
  decide
/-- A12. -/
theorem test_addReg_vf : nextIs (go 0x8F14 (regs [(15, 0x10), (1, 0xF5)] base)) (fun t => t.reg 15 == 1) := by decide
/-- S6. -/
theorem test_sub : nextIs (go 0x8015 (regs [(0, 5), (1, 10)] base)) (fun t => t.reg 0 == 251 && t.reg 15 == 0) := by decide
/-- A15. -/
theorem test_sub_equal : nextIs (go 0x8015 (regs [(0, 7), (1, 7)] base)) (fun t => t.reg 0 == 0 && t.reg 15 == 1) := by decide
/-- A17, both variants. -/
theorem test_shr :
    nextIs (go 0x8006 (regs [(0, 0x37)] base)) (fun t => t.reg 0 == 0x1B && t.reg 15 == 7) ∧
    nextIs (go 0x8006 (regs [(0, 0x37)] { base with cfg := { defaultConfig with aluVariant := .historical } }))
      (fun t => t.reg 0 == 0x1B && t.reg 15 == 1) := by decide
/-- A28. -/
theorem test_shr_vf : nextIs (go 0x8F06 (regs [(15, 0x3C)] base)) (fun t => t.reg 15 == 0x0C) := by decide
/-- A21, both variants. -/
theorem test_subn :
    nextIs (go 0x8017 (regs [(0, 0x10), (1, 0x30)] base)) (fun t => t.reg 0 == 0xE0 && t.reg 15 == 1) ∧
    nextIs (go 0x8017 (regs [(0, 0x10), (1, 0x30)] { base with cfg := { defaultConfig with aluVariant := .historical } }))
      (fun t => t.reg 0 == 0x20 && t.reg 15 == 1) := by decide
/-- A22. -/
theorem test_subn_borrow : nextIs (go 0x8017 (regs [(0, 0x0A), (1, 5)] base)) (fun t => t.reg 0 == 5 && t.reg 15 == 0) := by
  decide
/-- A24. -/
theorem test_shl : nextIs (go 0x800E (regs [(0, 0xC1)] base)) (fun t => t.reg 0 == 0x82 && t.reg 15 == 1) := by decide
/-- A25. -/
theorem test_shl_clear : nextIs (go 0x800E (regs [(0, 0x7F)] base)) (fun t => t.reg 0 == 0xFE && t.reg 15 == 0) := by decide
/-- A29. -/
theorem test_rnd : nextIs (go 0xC00F { base with draws := { resetDraws with randByte := 0xA7 } }) (fun t => t.reg 0 == 7) := by
  decide

/-! ## Index register and memory -/

/-- M1. -/
theorem test_ldI : nextIs (go 0xA300 base) (fun t => t.i == 0x300) := by decide
/-- M3. -/
theorem test_addI :
    nextIs (go 0xF01E (regs [(0, 1), (15, 0x33)] { base with i := 0xFFF })) (fun t => t.i == 0x1000 && t.reg 15 == 0x33) := by
  decide
/-- M6. -/
theorem test_ldF : nextIs (go 0xF029 (regs [(0, 0xFF)] base)) (fun t => t.i == 0x4FB) := by decide
/-- M9, at the top of memory. -/
theorem test_ldB :
    nextIs (go 0xF033 (regs [(0, 0x7B)] { base with i := 0xFFD }))
      (fun t => t.peek 0xFFD == 1 && t.peek 0xFFE == 2 && t.peek 0xFFF == 3 && t.i == 0xFFD) := by decide
/-- M10. -/
theorem test_ldB_bounds : faultIs (go 0xF033 { base with i := 0xFFE }) (.memoryBounds 0x1000) := by decide
/-- M11. -/
theorem test_ldMemVx :
    nextIs (go 0xF255 (regs [(0, 1), (1, 2), (2, 3)] { base with i := 0x300 }))
      (fun t => t.peek 0x300 == 1 && t.peek 0x301 == 2 && t.peek 0x302 == 3 && t.i == 0x303) := by decide
/-- M18. -/
theorem test_ldMemVx_bounds : faultIs (go 0xF055 { base with i := 0xFFFF }) (.memoryBounds 0xFFFF) := by decide
/-- M17, the first glyph of the default font. -/
theorem test_ldVxMem :
    nextIs (go 0xF465 base)
      (fun t => t.reg 0 == 0xF0 && t.reg 1 == 0x90 && t.reg 3 == 0x90 && t.reg 4 == 0xF0 && t.reg 5 == 0 && t.i == 5) := by
  decide
/-- M16. -/
theorem test_ldVxMem_bounds : faultIs (go 0xF565 { base with i := 0x2000 }) (.memoryBounds 0x2000) := by decide

/-! ## Display -/

/-- D12. -/
theorem test_cls :
    nextIs (go 0x00E0 { base with fb := Vector.replicate 64 7 })
      (fun t => t.fb == Vector.replicate 64 0 && t.drawRequest && t.reg 15 == 0) := by decide
/-- D1: exactly the 14 cells. -/
theorem test_drw :
    nextIs (go 0xD125 (regs [(1, 8), (2, 4)] base))
      (fun t => t.fb == ((((FrameBuf.blank.set 4 0xF00).set 5 0x900).set 6 0x900).set 7 0x900).set 8 0xF00 &&
        t.reg 15 == 0 && t.drawRequest) := by decide +kernel
/-- D3 with cell 62 set before: columns past 63 fall on the next row, and the set cell is cleared with VF = 1. -/
theorem test_drw_wrap :
    nextIs (go 0xD121 (regs [(1, 62)] { base with mem := [(0x300, 0xF0)], i := 0x300, fb := FrameBuf.blank.set 0 (1 <<< 62) }))
      (fun t => t.fb == (FrameBuf.blank.set 0 (1 <<< 63)).set 1 3 && t.reg 15 == 1) := by decide

/-! ## Keys and timers -/

/-- K1, K2. -/
theorem test_skp :
    nextIs (go 0xE59E (regs [(5, 7)] { base with pc := 0x220, draws := { resetDraws with keyDown := 0x80 } }))
      (fun t => t.pc == 0x224) ∧
    nextIs (go 0xE59E (regs [(5, 7)] { base with pc := 0x220 })) (fun t => t.pc == 0x222) := by decide
/-- K4. -/
theorem test_skp_range : faultIs (go 0xE59E (regs [(5, 0x10)] base)) (.keyIndexRange 0x10) := by decide
/-- K2, K3. -/
theorem test_sknp :
    nextIs (go 0xE5A1 (regs [(5, 7)] { base with pc := 0x220 })) (fun t => t.pc == 0x224) ∧
    nextIs (go 0xE5A1 (regs [(5, 7)] { base with pc := 0x220, draws := { resetDraws with keyDown := 0x80 } }))
      (fun t => t.pc == 0x222) := by decide
/-- K5. -/
theorem test_ldVxDt : nextIs (go 0xFB07 { base with dt := 4 }) (fun t => t.reg 11 == 4 && t.dt == 3) := by decide
/-- K7. -/
theorem test_ldVxK_wait :
    nextIs (go 0xF00A { base with pc := 0x204, dt := 2, st := 1 })
      (fun t => t.pc == 0x204 && t.dt == 1 && t.st == 0 && t.beep) := by decide
/-- K9. -/
theorem test_ldVxK :
    nextIs (go 0xF00A { base with draws := { resetDraws with keyDown := 0x208 } })
      (fun t => (t.reg 0 == 3 || t.reg 0 == 9) && t.pc == 0x202) := by decide
/-- K10. -/
theorem test_ldDtVx : nextIs (go 0xFA15 (regs [(10, 5)] base)) (fun t => t.dt == 4) := by decide
/-- K13. -/
theorem test_ldStVx : nextIs (go 0xF118 (regs [(1, 1)] base)) (fun t => t.st == 0 && t.beep) := by decide
/-- K14. -/
theorem test_ldStVx_silence : nextIs (go 0xF118 { base with st := 5 }) (fun t => t.st == 0 && !t.beep) := by decide

/-! ## Step, load and reset -/

/-- C4. -/
theorem test_step_not_loaded : faultIs (step State.reset) .stepNotLoaded := by decide
/-- C5. -/
theorem test_step_after_halt :
    faultIs (step { base with runState := .halted .endOfProgram 0x300 }) .stepAfterHalt := by decide
/-- C6: the sentinel's word anywhere else is an ordinary jump. -/
theorem test_sentinel_elsewhere : nextIs (go 0x1260 { base with pc := 0x202 }) (fun t => t.pc == 0x260 && !t.hires) := by decide
/-- C7, step 1. -/
theorem test_sentinel : nextIs (go 0x1260 base) (fun t => t.pc == 0x2C0 && t.hires) := by decide
/-- C10: the font's first word is unknown. -/
theorem test_unknown :
    nextIs (step { base with pc := 0 }) (fun t => haltedWith .unknownInstruction 0xF090 t && t.pc == 0 && t.haltReasonOut == 2) := by
  decide
/-- C9. -/
theorem test_ambiguous : refusedIs (step { base with pc := 0x100 }) (.dispatchAmbiguous 0) := by decide
/-- S10, step 2. -/
theorem test_end_of_program :
    nextIs (step { base with progLen := 2, pc := 0x202 })
      (fun t => haltedWith .endOfProgram 0x202 t && t.haltInfoOut == 0x202 && t.haltReasonOut == 1) := by decide
/-- M19. -/
theorem test_fetch_bounds : faultIs (step { base with pc := 0xFFF }) (.memoryBounds 0x1000) := by decide
/-- S10: LOAD of `00 E0`. -/
theorem test_load :
    (State.reset.load (some [0x00, 0xE0])).loadOk ∧ (State.reset.load (some [0x00, 0xE0])).progLen = 2 ∧
    nextIs (step (State.reset.load (some [0x00, 0xE0]))) (fun t => t.pc == 0x202 && t.drawRequest) := by decide
/-- C1, C8. -/
theorem test_load_empty :
    ({ base with hires := true }.load (some [])).loadOk = false ∧ ({ base with hires := true }.load (some [])).hires = false ∧
    ({ base with hires := true }.load (some [])).runState = .notLoaded := by decide
/-- The host's question: a placed word runs as the first instruction after reset. -/
theorem test_withFetchWord : nextIs (step (State.reset.withFetchWord 16 0x6A05)) (fun t => t.reg 10 == 5) := by decide
/-- The memory of reset is in canonical form. -/
theorem test_reset_memory : Memory.wf State.reset.cfg.font State.reset.mem := by decide

/-! ## Witnesses: states and operands that meet the hypotheses of the statements -/

theorem runs_of {s : State} {w : Word} {i : Instr}
    (h : decode (if (s.placeWord w).pc = 0x200 ∧ w = 0x1260 then 0x12C0 else w) = .instr i) : (s.placeWord w).Runs w i :=
  ⟨s.placeWord_fetches w, h⟩

theorem next_of {r : Result} {p : State → Bool} (h : nextIs r p = true) : ∃ t, r = .next t :=
  let ⟨t, ht, _⟩ := exists_next h
  ⟨t, ht⟩

theorem fault_of {r : Result} {f : Fault} (h : faultIs r f = true) : r = .fault f := by
  cases r <;> simp_all [faultIs]

theorem refused_of {r : Result} {e : Refusal} (h : refusedIs r e = true) : r = .refused e := by
  cases r <;> simp_all [refusedIs]

/-- A loaded machine, running, with one word to run. -/
abbrev one (w : Word) : State := base.placeWord w

theorem witness_DecodeOfEncode : (Instr.drw 15 0 15).wf = true ∧ (Instr.jp 0xFFF).wf = true := by decide
theorem witness_EncodeOfDecode : decode 0x8AB5 = .instr (.sub 10 11) := by decide
theorem witness_UnknownWords : decode 0x0123 = .unknown ∧ (one 0x0123).Fetches 0x0123 :=
  ⟨by decide, State.placeWord_fetches _ _⟩
theorem witness_AmbiguousWords : decode 0x5121 = .ambiguous ∧ (one 0x5121).Fetches 0x5121 :=
  ⟨by decide, State.placeWord_fetches _ _⟩
theorem witness_Fetch_inside : ({ base with pc := 0xFFE } : State).pc.toNat + 1 < 0x1000 := by decide
theorem witness_Fetch_outside :
    let s : State := { base with pc := 0xFFF }
    s.runState = .running ∧ s.progLen ≤ 3584 ∧ s.pc.toNat < 0x200 + s.progLen ∧ 0x1000 ≤ s.pc.toNat + 1 := by decide
theorem witness_StepRuns_next : (one 0x6A05).Runs 0x6A05 (.ldImm 10 5) ∧ ∃ u, exec (.ldImm 10 5) ((one 0x6A05).start 0x6A05) = .next u :=
  ⟨runs_of (by decide), _, rfl⟩
theorem witness_StepRuns_fault :
    (one 0x00EE).Runs 0x00EE .ret ∧ exec .ret ((one 0x00EE).start 0x00EE) = .fault .stackUnderflow :=
  ⟨runs_of (by decide), rfl⟩
theorem witness_EndOfProgram_at :
    let s : State := { base with progLen := 2, pc := 0x202 }
    s.runState = .running ∧ 0x200 + s.progLen ≤ s.pc.toNat := by decide
theorem witness_EndOfProgram_below :
    (one 0x6A05).runState = .running ∧ (one 0x6A05).pc.toNat < 0x200 + (one 0x6A05).progLen ∧ ∃ t, step (one 0x6A05) = .next t :=
  ⟨rfl, by decide, next_of test_ldImm⟩
theorem witness_StepMoves :
    State.reset.runState = .notLoaded ∧
    ({ base with runState := .halted .endOfProgram 0x300 } : State).runState = .halted .endOfProgram 0x300 ∧
    (∃ t, step (one 0x6A05) = .next t) ∧ step { base with pc := 0x100 } = .refused (.dispatchAmbiguous 0) :=
  ⟨rfl, rfl, next_of test_ldImm, refused_of test_ambiguous⟩
theorem witness_Sentinel_at : (one 0x1260).Fetches 0x1260 ∧ (one 0x1260).pc = 0x200 := ⟨State.placeWord_fetches _ _, by decide⟩
theorem witness_Sentinel_changes : ∃ t, step (one 0x1260) = .next t ∧ t.hires ≠ (one 0x1260).hires :=
  let ⟨t, ht, hp⟩ := exists_next test_sentinel
  ⟨t, ht, by simp at hp; rw [hp.2]; decide⟩
theorem witness_Timers_runs :
    ({ base with st := 1 }.placeWord 0x6000).Runs 0x6000 (.ldImm 0 0) ∧
    ∃ u, exec (.ldImm 0 0) (({ base with st := 1 }.placeWord 0x6000).start 0x6000) = .next u ∧ u.st = 1 :=
  ⟨runs_of (by decide), _, rfl, rfl⟩
theorem witness_Timers_halts : ∃ t, step { base with pc := 0 } = .next t ∧ t.runState ≠ .running :=
  let ⟨t, ht, hp⟩ := exists_next test_unknown
  ⟨t, ht, by simp [haltedWith] at hp; rw [hp.1.1]; decide⟩
theorem witness_DrawRequest : ∃ t, step (one 0x00E0) = .next t :=
  next_of (p := fun t => t.drawRequest) (by decide)
theorem witness_PcAfter : (one 0x6A05).Runs 0x6A05 (.ldImm 10 5) ∧ ∃ t, step (one 0x6A05) = .next t :=
  ⟨runs_of (by decide), next_of test_ldImm⟩
theorem witness_StepCompletes :
    ({ base with i := 0xFFD }.placeWord 0xF033).Runs 0xF033 (.ldB 0) ∧
    ∀ f, ¬ (Instr.ldB 0).FaultsIn ({ base with i := 0xFFD }.placeWord 0xF033) f :=
  ⟨runs_of (by decide), fun f h => absurd h.1 (by decide)⟩
theorem witness_StepRefuses : step { base with pc := 0x100 } = .refused (.dispatchAmbiguous 0) := refused_of test_ambiguous
theorem witness_EvenTargets :
    (one 0x1234).Runs 0x1234 (.jp 0x234) ∧ (∃ t, step (one 0x1234) = .next t) ∧
    (∀ nnn, Instr.jp 0x234 = .jp nnn ∨ Instr.jp 0x234 = .call nnn → nnn.toNat % 2 = 0) ∧
    (∀ nnn, Instr.jp 0x234 = .jpV0 nnn → (nnn.toNat + ((one 0x1234).reg 0).toNat) % 2 = 0) ∧
    (one 0x1234).pc.toNat % 2 = 0 ∧ ∀ a ∈ (one 0x1234).stack, a.toNat % 2 = 0 := by
  refine ⟨runs_of (by decide), next_of test_jp, ?_, ?_, by decide, fun a h => nomatch (show a ∈ ([] : List Word) from h)⟩
  · rintro nnn (h | h) <;> cases h; decide
  · intro nnn h; cases h
theorem witness_HaltsArePrecise_fatal :
    step (one 0x00EE) = .fault .stackUnderflow ∧ Fault.stackUnderflow.halt? = some (.stackUnderflow, 0) :=
  ⟨fault_of (by decide), rfl⟩
theorem witness_HaltsArePrecise_clean : ∃ t, step { base with pc := 0 } = .next t ∧ t.runState = .halted .unknownInstruction 0xF090 :=
  let ⟨t, ht, hp⟩ := exists_next test_unknown
  ⟨t, ht, by simp [haltedWith] at hp; exact hp.1.1⟩
theorem witness_HaltedIsAbsorbing :
    let s : State := { base with runState := .halted .endOfProgram 0x300 }
    s.runState = .halted .endOfProgram 0x300 ∧ (∃ t, s.command (.load none) = .next t ∧ t.runState ≠ s.runState) ∧
    1 ≤ ([0x00] : List Byte).length ∧ ([0x00] : List Byte).length ≤ 3584 :=
  ⟨rfl, ⟨_, rfl, by decide⟩, by decide, by decide⟩
theorem witness_Load :
    (1 ≤ ([0x00] : List Byte).length ∧ ([0x00] : List Byte).length ≤ 3584) ∧
    (1 ≤ (List.replicate 3584 (0 : Byte)).length ∧ (List.replicate 3584 (0 : Byte)).length ≤ 3584 ∧
      3583 < (List.replicate 3584 (0 : Byte)).length) := by
  rw [List.length_replicate]; decide
/-- The byte and address clauses of LOAD, each at a boundary (of LoadEstablishesEveryElement and HaltedIsAbsorbing). -/
theorem witness_Load_addresses :
    0 < ([0x00] : List Byte).length ∧ 79 < 80 ∧ (80 ≤ 80 ∧ (80 < 0x200 ∨ 0x200 + ([0x00] : List Byte).length ≤ 80)) ∧
    (80 ≤ 0x201 ∧ (0x201 < 0x200 ∨ 0x200 + ([0x00] : List Byte).length ≤ 0x201)) := by decide
theorem witness_FailedLoad :
    (∀ bytes : List Byte, (none : Option (List Byte)) = some bytes → bytes.length = 0 ∨ 3584 < bytes.length) ∧
    (∀ bytes : List Byte, some [] = some bytes → bytes.length = 0 ∨ 3584 < bytes.length) ∧
    ∀ bytes : List Byte, some (List.replicate 3585 0) = some bytes → bytes.length = 0 ∨ 3584 < bytes.length := by
  refine ⟨fun b h => ?_, fun b h => ?_, fun b h => ?_⟩ <;> cases h
  · exact .inl rfl
  · right; rw [List.length_replicate]; decide

/-- A loaded machine with one instruction meets the invariant. -/
theorem one_inv : (one 0x6A05).Inv where
  mem := by decide
  stack := by decide
  progLen := by decide
  loaded := by decide
  lenLoaded := by decide
  inactive := fun _ c _ => FrameBuf.cell_blank c

theorem witness_StepKeeps : (one 0x6A05).Inv ∧ ∃ t, step (one 0x6A05) = .next t := ⟨one_inv, next_of test_ldImm⟩
theorem witness_CommandsKeep : (one 0x6A05).Inv ∧ ∃ t, (one 0x6A05).command .render = .next t := ⟨one_inv, _, rfl⟩
theorem witness_RegistersWritten :
    (∃ t, exec (.addReg 1 2) base = .next t) ∧ ¬ (Instr.addReg 1 2).writesReg 2 := ⟨⟨_, rfl⟩, by simp [Instr.writesReg]⟩
theorem witness_MemoryWritten : (∃ t, exec (.ldB 0) { base with i := 0xFFD } = .next t) ∧ (0xFFC < 0xFFD ∨ 0xFFD + 3 ≤ 0xFFC) :=
  ⟨next_of (p := fun _ => true) (by decide), by decide⟩
theorem witness_Writers :
    (∃ t, exec (.ldI 0x300) base = .next t ∧ t.i ≠ base.i) ∧
    (∃ t, exec (.call 0x300) base = .next t ∧ t.stack ≠ base.stack) ∧
    (∃ t, exec (.ldDtVx 0) { base with dt := 5 } = .next t ∧ t.dt ≠ 5) ∧
    (∃ t, exec (.ldStVx 0) { base with st := 5 } = .next t ∧ t.st ≠ 5) ∧
    ∃ t, exec .cls { base with fb := Vector.replicate 64 1 } = .next t ∧ t.fb ≠ Vector.replicate 64 1 :=
  ⟨⟨_, rfl, by decide⟩, ⟨_, rfl, by decide⟩, ⟨_, rfl, by decide⟩, ⟨_, rfl, by decide⟩, ⟨_, rfl, by decide⟩⟩
theorem witness_Inputs_keys :
    (∀ x, Instr.cls ≠ .skp x ∧ Instr.cls ≠ .sknp x ∧ Instr.cls ≠ .ldVxK x) ∧ ∃ t, exec .cls base = .next t :=
  ⟨fun x => by simp, _, rfl⟩
theorem witness_Inputs_random : (∀ x nn, Instr.skp 0 ≠ .rnd x nn) ∧ ∃ t, exec (.skp 0) base = .next t :=
  ⟨fun x nn => by simp, _, rfl⟩
theorem witness_StoredBytes :
    1 ≤ (1 : RegIdx).val ∧ ∃ t u : State, exec (.ldMemVx 1) { base with i := 0xFFE } = .next t ∧ u.mem = t.mem ∧ u.cfg = t.cfg ∧
      u.pc = 0xFFE :=
  ⟨by decide, let ⟨t, ht⟩ := next_of (r := exec (.ldMemVx 1) { base with i := 0xFFE }) (p := fun _ => true) (by decide)
    ⟨t, { t with pc := 0xFFE }, ht, rfl, rfl, rfl⟩⟩
theorem witness_Call :
    ({ base with stack := List.replicate 15 0x208 } : State).stack.length < 16 ∧
    16 ≤ ({ base with stack := List.replicate 16 0x208 } : State).stack.length := by decide
theorem witness_Ret : ({ base with stack := [0x204] } : State).stack = [] ++ [0x204] ∧ base.stack = [] := by decide
theorem witness_RetResumes : ∃ u r : State, exec (.call 0x300) base = .next u ∧ r.stack = u.stack := ⟨_, _, rfl, rfl⟩
theorem witness_Skips : (base.reg 0 = 0 ∧ base.reg 0 ≠ 1) ∧ (base.reg 0 = base.reg 1 ∧ (regs [(0, 1)] base).reg 0 ≠ (regs [(0, 1)] base).reg 1) := by
  decide
theorem witness_Flags_latched : base.cfg.vfCorner = .latched := rfl
theorem witness_Flags_havoc :
    let s : State := { base with cfg := { defaultConfig with vfCorner := .havoc } }
    s.cfg.vfCorner = .havoc ∧ ((1 : RegIdx) ≠ 15 ∧ (2 : RegIdx) ≠ 15) ∧ ((15 : RegIdx) = 15 ∨ (2 : RegIdx) = 15) := by decide
theorem witness_Variants :
    base.cfg.aluVariant = .literal ∧
    ({ base with cfg := { defaultConfig with aluVariant := .historical } } : State).cfg.aluVariant = .historical := by decide
theorem witness_RandomByte : (0xF0 : Byte) &&& ~~~0xF0 = 0 := by decide
theorem witness_Bcd :
    ({ base with i := 0xFFD } : State).i.toNat + 2 < 0x1000 ∧ 0x1000 ≤ ({ base with i := 0xFFE } : State).i.toNat + 2 := by
  decide
theorem witness_Store :
    ({ base with i := 0xFF0 } : State).i.toNat + (15 : RegIdx).val < 0x1000 ∧ (15 : RegIdx) ≤ 15 ∧
    0x1000 ≤ ({ base with i := 0xFF1 } : State).i.toNat + (15 : RegIdx).val := by decide
theorem witness_Load_registers :
    ({ base with i := 0xFFF } : State).i.toNat + (0 : RegIdx).val < 0x1000 ∧ (0 : RegIdx) ≤ 0 ∧ (0 : RegIdx) < 1 ∧
    0x1000 ≤ ({ base with i := 0x1000 } : State).i.toNat + (0 : RegIdx).val := by decide
theorem witness_LoadAfterStore :
    ∃ u r : State, exec (.ldMemVx 2) { base with i := 0x300 } = .next u ∧ r.mem = u.mem ∧ r.cfg = u.cfg ∧ r.i = 0x300 :=
  let ⟨u, hu⟩ := next_of (r := exec (.ldMemVx 2) { base with i := 0x300 }) (p := fun _ => true) (by decide)
  ⟨u, { u with i := 0x300 }, hu, rfl, rfl, rfl⟩
theorem witness_Draw :
    15 < 16 ∧ ((0 = 0 ∨ ({ base with i := 0xFFFF } : State).i.toNat + 0 - 1 < 0x1000) ∧
      ({ base with i := 0xFF1 } : State).i.toNat + 15 - 1 < 0x1000) ∧
    (0 < 15 ∧ 0x1000 ≤ ({ base with i := 0xFF2 } : State).i.toNat + 15 - 1) := by decide
theorem witness_HavocDraw :
    let s : State := { base with cfg := { defaultConfig with vfCorner := .havoc } }
    s.cfg.vfCorner = .havoc ∧ ((1 : RegIdx) = 15 ∨ (15 : RegIdx) = 15) ∧ (5 = 0 ∨ s.i.toNat + 5 - 1 < 0x1000) ∧
    s.hires = false ∧ 2048 ≤ 2048 ∧ 2047 < (if s.hires then 4096 else 2048) := by decide
theorem witness_DrawingTwice :
    ∃ u t : State, exec (.drw 1 2 1) base = .next u ∧ exec (.drw 1 2 1) u = .next t ∧ u.reg 15 = 0 ∧ base.SpriteLights 1 2 1 0 := by
  refine ⟨_, _, rfl, rfl, by decide, 0, 0, by decide, by decide, by decide, by decide⟩
theorem witness_Render : 2047 < (if base.hires then 4096 else 2048) ∧ 2 < 3 := by decide
theorem witness_Trace : (one 0x1260).Runs 0x1260 (.jp 0x2C0) := runs_of (by decide)
theorem witness_KeySkips : ((regs [(0, 15)] base).reg 0).toNat ≤ 15 ∧ 15 < ((regs [(0, 16)] base).reg 0).toNat := by decide
theorem witness_KeyWait :
    (∀ k : RegIdx, base.draws.keyDown.getLsbD k = false) ∧
    ({ resetDraws with keyDown := 0x208 } : Draws).keyDown.getLsbD (9 : RegIdx) = true := by decide
theorem witness_WrittenTimer :
    (one 0xFA15).Runs 0xFA15 (.ldDtVx 10) ∧ (one 0xF118).Runs 0xF118 (.ldStVx 1) := ⟨runs_of (by decide), runs_of (by decide)⟩
theorem witness_Waiting :
    (one 0xF00A).Runs 0xF00A (.ldVxK 0) ∧ ∀ k : RegIdx, (one 0xF00A).draws.keyDown.getLsbD k = false :=
  ⟨runs_of (by decide), by decide⟩

end Sys2Proof.Tests
end

section
/-! SUPPORT. What the instructions that can stop, or that choose, do when they complete: one equivalence each. For every other
instruction `exec` is `.next` of one written-out state, and `cases` on the equation reads that state off. -/

namespace Sys2Proof.Machine

/-- RET completes exactly on a stack with a top entry, and goes there (40_flow.md R100). -/
theorem exec_ret_next_iff {s t : State} :
    exec .ret s = .next t ↔ ∃ a l, s.stack = l ++ [a] ∧ t = { s with stack := l, pc := a } := by
  change execRet s = .next t ↔ _
  unfold execRet
  cases hp : s.pop with
  | none => simp [(s.pop_eq_none_iff).1 hp, raiseHalt]
  | some p =>
    obtain ⟨a, u⟩ := p
    obtain ⟨hs, hu⟩ := (s.pop_eq_some_iff u a).1 hp
    constructor
    · intro h
      cases h
      exact ⟨a, u.stack, hs, by rw [hu]⟩
    · rintro ⟨b, l, hl, rfl⟩
      obtain ⟨rfl, hab⟩ := List.append_inj' (hs.symm.trans hl) rfl
      cases hab
      rw [hu]

/-- CALL completes exactly below STACK_DEPTH, with its own address pushed (40_flow.md R102). -/
theorem exec_call_next_iff {s t : State} {nnn : Word} :
    exec (.call nnn) s = .next t ↔
      s.stack.length < stackDepth ∧ t = { s with stack := s.stack ++ [s.pc] }.jumpTo nnn := by
  change execCall nnn s = .next t ↔ _
  unfold execCall
  cases hp : s.push s.pc with
  | none =>
    have := (s.push_eq_none_iff s.pc).1 hp
    simp [raiseHalt]; omega
  | some u =>
    obtain ⟨hlen, rfl⟩ := (s.push_eq_some_iff u s.pc).1 hp
    simp [hlen, eq_comm]

/-- DXYN completes exactly when its rows lie in memory (43_display.md R172, R173). -/
theorem exec_drw_next_iff {s t : State} {x y : RegIdx} {n : Nat} :
    exec (.drw x y n) s = .next t ↔ (n = 0 ∨ s.i.toNat + n ≤ 0x1000) ∧
      t = if s.vfHavoc x y then s.drawn (havocRows (s.cells / 64) s.draws.havocCells s.fb) s.draws.havocHit
        else s.drawn (s.drawSprite x y (s.peeks s.i.toNat n)).1 (s.drawSprite x y (s.peeks s.i.toNat n)).2 := by
  change execDrw x y n s = .next t ↔ _
  unfold execDrw
  cases hl : s.loadRange s.i n with
  | error a =>
    obtain ⟨hn, hi, -⟩ := (s.loadRange_error_iff s.i n a).1 hl
    simp [raiseHalt]; omega
  | ok rows =>
    obtain ⟨hr, rfl⟩ := (s.loadRange_ok_iff s.i n rows).1 hl
    simp only [hr, true_and]
    split <;> simp [eq_comm]

/-- Whether key `k` is down, for the sixteen keys there are (44_timers_keys.md R190). -/
theorem State.keyState_eq_some_iff {s : State} {k : Byte} {down : Bool} :
    s.keyState k = some down ↔ k.toNat ≤ 15 ∧ down = s.draws.keyDown.getLsbD k.toNat := by
  unfold State.keyState
  split <;> simp_all [eq_comm]

theorem State.keyState_eq_none_iff {s : State} {k : Byte} : s.keyState k = none ↔ 15 < k.toNat := by
  unfold State.keyState
  split <;> simp <;> omega

/-- EX9E completes exactly on a key index (44_timers_keys.md R190). -/
theorem exec_skp_next_iff {s t : State} {x : RegIdx} :
    exec (.skp x) s = .next t ↔
      (s.reg x).toNat ≤ 15 ∧ t = s.skipIf (s.draws.keyDown.getLsbD (s.reg x).toNat) := by
  change execSkp x s = .next t ↔ _
  unfold execSkp
  cases hk : s.keyState (s.reg x) with
  | none =>
    have := State.keyState_eq_none_iff.1 hk
    simp [raiseHalt]; omega
  | some down =>
    obtain ⟨hle, rfl⟩ := State.keyState_eq_some_iff.1 hk
    simp [hle, eq_comm]

/-- EXA1 completes exactly on a key index (44_timers_keys.md R191). -/
theorem exec_sknp_next_iff {s t : State} {x : RegIdx} :
    exec (.sknp x) s = .next t ↔
      (s.reg x).toNat ≤ 15 ∧ t = s.skipIf (!s.draws.keyDown.getLsbD (s.reg x).toNat) := by
  change execSknp x s = .next t ↔ _
  unfold execSknp
  cases hk : s.keyState (s.reg x) with
  | none =>
    have := State.keyState_eq_none_iff.1 hk
    simp [raiseHalt]; omega
  | some down =>
    obtain ⟨hle, rfl⟩ := State.keyState_eq_some_iff.1 hk
    simp [hle, eq_comm]

/-- FX0A always completes: it stores a key that is down, or it goes back to be fetched again (44_timers_keys.md R193). -/
theorem exec_ldVxK_next_iff {s t : State} {x : RegIdx} :
    exec (.ldVxK x) s = .next t ↔
      (∃ k, pickKey s.draws.keyDown s.draws.keyPick = some k ∧ t = s.setReg x (BitVec.ofNat 8 k.val)) ∨
        (pickKey s.draws.keyDown s.draws.keyPick = none ∧ t = { s with pc := s.pc - 2 }) := by
  change execLdVxK x s = .next t ↔ _
  unfold execLdVxK
  cases pickKey s.draws.keyDown s.draws.keyPick <;> simp [eq_comm]

/-- FX33 completes exactly when its three bytes lie in memory (42_index_memory.md R153). -/
theorem exec_ldB_next_iff {s t : State} {x : RegIdx} :
    exec (.ldB x) s = .next t ↔
      s.i.toNat + 3 ≤ 0x1000 ∧ t = s.pokes s.i.toNat (bcdDigits (s.reg x)) := by
  change execLdB x s = .next t ↔ _
  unfold execLdB
  cases hs : s.storeRange s.i (bcdDigits (s.reg x)) with
  | error a =>
    obtain ⟨-, hi, -⟩ := (s.storeRange_error_iff s.i _ a).1 hs
    simp [raiseHalt, bcdDigits] at hi ⊢; omega
  | ok u =>
    obtain ⟨hr, rfl⟩ := (s.storeRange_ok_iff u s.i _).1 hs
    simp [bcdDigits] at hr
    simp [hr, eq_comm]

/-- FX55 completes exactly when its bytes lie in memory (42_index_memory.md R154). -/
theorem exec_ldMemVx_next_iff {s t : State} {x : RegIdx} :
    exec (.ldMemVx x) s = .next t ↔
      s.i.toNat + x.val < 0x1000 ∧ t = (s.pokes s.i.toNat (s.regsUpTo x)).advanceI x := by
  change execLdMemVx x s = .next t ↔ _
  unfold execLdMemVx
  cases hs : s.storeRange s.i (s.regsUpTo x) with
  | error a =>
    obtain ⟨-, hi, -⟩ := (s.storeRange_error_iff s.i _ a).1 hs
    rw [State.regsUpTo_length] at hi
    simp [raiseHalt]; omega
  | ok u =>
    obtain ⟨hr, rfl⟩ := (s.storeRange_ok_iff u s.i _).1 hs
    rw [← List.length_eq_zero_iff, State.regsUpTo_length] at hr
    have : s.i.toNat + x.val < 0x1000 := by omega
    simp [this, eq_comm]

/-- FX65 completes exactly when its bytes lie in memory (42_index_memory.md R155). -/
theorem exec_ldVxMem_next_iff {s t : State} {x : RegIdx} :
    exec (.ldVxMem x) s = .next t ↔ s.i.toNat + x.val < 0x1000 ∧
      t = { s with v := setRegsFrom s.v 0 (s.peeks s.i.toNat (x.val + 1)) }.advanceI x := by
  change execLdVxMem x s = .next t ↔ _
  unfold execLdVxMem
  cases hl : s.loadRange s.i (x.val + 1) with
  | error a =>
    obtain ⟨-, hi, -⟩ := (s.loadRange_error_iff s.i _ a).1 hl
    simp [raiseHalt]; omega
  | ok bs =>
    obtain ⟨hr, rfl⟩ := (s.loadRange_ok_iff s.i _ bs).1 hl
    have : s.i.toNat + x.val < 0x1000 := by omega
    simp [this, eq_comm]

end Sys2Proof.Machine
end

section
/-! PROOFS. What an instruction that completes leaves unchanged, where it leaves PC, and what it reads of the step's inputs. -/

namespace Sys2Proof.Machine

/-! ## Frames -/

/-- A skip writes PC and nothing else. -/
theorem State.skipIf_eq (s : State) (c : Bool) : s.skipIf c = { s with pc := (s.skipIf c).pc } := by
  cases c <;> rfl

/-- A flagged write writes registers and nothing else. -/
theorem State.writeFlagged_eq (s : State) (x y : RegIdx) (r f : Byte) :
    s.writeFlagged x y r f = { s with v := (s.writeFlagged x y r f).v } := by
  unfold State.writeFlagged
  split <;> rfl

/-- A flagged write leaves every register but its destination and VF (41_alu.md R121, R122). -/
theorem State.reg_writeFlagged_of_ne {s : State} {x y r : RegIdx} (v f : Byte) (hx : r ≠ x) (hF : r ≠ 15) :
    (s.writeFlagged x y v f).reg r = s.reg r := by
  cases hv : s.vfHavoc x y with
  | true => simp [State.reg_writeFlagged_havoc hv, hx, hF]
  | false => simp [State.reg_writeFlagged hv, hx, hF]

/-- A load of registers from V0 up leaves the registers past its bytes. -/
theorem reg_setRegsFrom_of_le {s : State} {bs : List Byte} {r : RegIdx} (h : bs.length ≤ r.val) :
    (setRegsFrom s.v 0 bs)[r] = s.reg r := by
  simp only [Fin.getElem_fin, setRegsFrom_getElem, State.reg]
  exact dif_neg (by omega)

/-- `exec` writes the registers, I, PC, the stack, the timers, the framebuffer, memory and draw_request, and nothing else. -/
theorem exec_frame {i : Instr} {s t : State} (h : exec i s = .next t) :
    t = { s with v := t.v, i := t.i, pc := t.pc, stack := t.stack, dt := t.dt, st := t.st, fb := t.fb, mem := t.mem,
                 drawRequest := t.drawRequest } := by
  cases i with
  | cls | jp _ | jpV0 _ | ldImm _ _ | addImm _ _ | ldReg _ _ | orReg _ _ | andReg _ _ | xorReg _ _ | rnd _ _ | ldVxDt _
  | ldI _ | addI _ | ldF _ | ldDtVx _ | ldStVx _ =>
    cases h; rfl
  | seImm _ _ | sneImm _ _ | seReg _ _ | sneReg _ _ => cases h; rw [s.skipIf_eq]
  | skp _ => obtain ⟨-, rfl⟩ := exec_skp_next_iff.1 h; rw [s.skipIf_eq]
  | sknp _ => obtain ⟨-, rfl⟩ := exec_sknp_next_iff.1 h; rw [s.skipIf_eq]
  | addReg _ _ | sub _ _ | shr _ _ | subn _ _ | shl _ _ => cases h; rw [s.writeFlagged_eq]
  | drw _ _ _ => obtain ⟨-, rfl⟩ := exec_drw_next_iff.1 h; split <;> rfl
  | ret => obtain ⟨_, _, -, rfl⟩ := exec_ret_next_iff.1 h; rfl
  | call _ => obtain ⟨-, rfl⟩ := exec_call_next_iff.1 h; rfl
  | ldVxK _ => obtain ⟨_, -, rfl⟩ | ⟨-, rfl⟩ := exec_ldVxK_next_iff.1 h <;> rfl
  | ldB _ => obtain ⟨-, rfl⟩ := exec_ldB_next_iff.1 h; rw [s.pokes_eq]
  | ldMemVx _ => obtain ⟨-, rfl⟩ := exec_ldMemVx_next_iff.1 h; rw [s.pokes_eq]; rfl
  | ldVxMem _ => obtain ⟨-, rfl⟩ := exec_ldVxMem_next_iff.1 h; rfl

theorem exec_hires {i : Instr} {s t : State} (h : exec i s = .next t) : t.hires = s.hires := by
  rw [exec_frame h]

theorem exec_runState {i : Instr} {s t : State} (h : exec i s = .next t) : t.runState = s.runState := by
  rw [exec_frame h]

theorem exec_draws {i : Instr} {s t : State} (h : exec i s = .next t) : t.draws = s.draws := by
  rw [exec_frame h]

/-- The writers of I, the stack, the timers and the framebuffer. -/
theorem exec_writers {i : Instr} {s t : State} (h : exec i s = .next t) :
    (t.i ≠ s.i → (∃ nnn, i = .ldI nnn) ∨ ∃ x, i = .addI x ∨ i = .ldF x ∨ i = .ldMemVx x ∨ i = .ldVxMem x) ∧
    (t.stack ≠ s.stack → i = .ret ∨ ∃ nnn, i = .call nnn) ∧
    (t.dt ≠ s.dt → ∃ x, i = .ldDtVx x) ∧
    (t.st ≠ s.st → ∃ x, i = .ldStVx x) ∧
    (t.fb ≠ s.fb → i = .cls ∨ ∃ x y n, i = .drw x y n) := by
  cases i with
  | ldI _ | addI _ | ldF _ => cases h; simp
  | cls | ldDtVx _ | ldStVx _ => cases h; simp
  | ldImm _ _ | addImm _ _ | ldReg _ _ | orReg _ _ | andReg _ _ | xorReg _ _ | rnd _ _ | ldVxDt _
  | addReg _ _ | sub _ _ | shr _ _ | subn _ _ | shl _ _ => cases h; simp
  | jp _ | jpV0 _ | seImm _ _ | sneImm _ _ | seReg _ _ | sneReg _ _ => cases h; simp
  | skp _ => obtain ⟨-, rfl⟩ := exec_skp_next_iff.1 h; simp
  | sknp _ => obtain ⟨-, rfl⟩ := exec_sknp_next_iff.1 h; simp
  | drw _ _ _ => obtain ⟨-, rfl⟩ := exec_drw_next_iff.1 h; split <;> simp
  | ret => obtain ⟨_, _, -, rfl⟩ := exec_ret_next_iff.1 h; simp
  | call _ => obtain ⟨-, rfl⟩ := exec_call_next_iff.1 h; simp
  | ldVxK _ => obtain ⟨_, -, rfl⟩ | ⟨-, rfl⟩ := exec_ldVxK_next_iff.1 h <;> simp
  | ldB _ => obtain ⟨-, rfl⟩ := exec_ldB_next_iff.1 h; simp
  | ldMemVx _ => obtain ⟨-, rfl⟩ := exec_ldMemVx_next_iff.1 h; simp
  | ldVxMem _ => obtain ⟨-, rfl⟩ := exec_ldVxMem_next_iff.1 h; simp

/-- Settles O29: the written elements by `exec_writers`, the others by `exec_frame`. -/
theorem eachElementHasItsWriters : Obligations.EachElementHasItsWriters := by
  intro i s t h
  obtain ⟨hi, hstack, hdt, hst, hfb⟩ := exec_writers h
  refine ⟨hi, hstack, hdt, hst, hfb, ?_⟩
  rw [exec_frame h]
  simp

/-- Settles O27: an instruction that writes registers writes one, VF besides, or those from V0 up to VX; every other one
leaves the register file. -/
theorem registersAreWrittenOnlyAsNamed : Obligations.RegistersAreWrittenOnlyAsNamed := by
  intro i s t h r hr
  cases i with
  | ldImm _ _ | addImm _ _ | ldReg _ _ | orReg _ _ | andReg _ _ | xorReg _ _ | rnd _ _ | ldVxDt _ =>
    cases h; exact (s.reg_setReg _ _ _).trans (if_neg hr)
  | addReg _ _ | sub _ _ | shr _ _ | subn _ _ | shl _ _ =>
    cases h
    obtain ⟨hx, hF⟩ := not_or.1 hr
    exact State.reg_writeFlagged_of_ne _ _ hx hF
  | drw _ _ _ =>
    obtain ⟨-, rfl⟩ := exec_drw_next_iff.1 h
    split <;> exact (s.reg_drawn _ _ _).trans (if_neg hr)
  | ldVxK _ =>
    obtain ⟨_, -, rfl⟩ | ⟨-, rfl⟩ := exec_ldVxK_next_iff.1 h
    · exact (s.reg_setReg _ _ _).trans (if_neg hr)
    · rfl
  | ldVxMem x =>
    obtain ⟨-, rfl⟩ := exec_ldVxMem_next_iff.1 h
    have hx : x < r := not_le.1 hr
    exact reg_setRegsFrom_of_le (by simpa using hx)
  | ldI _ | addI _ | ldF _ | cls | ldDtVx _ | ldStVx _ | jp _ | jpV0 _ => cases h; rfl
  | seImm _ _ | sneImm _ _ | seReg _ _ | sneReg _ _ => cases h; simp
  | skp _ => obtain ⟨-, rfl⟩ := exec_skp_next_iff.1 h; simp
  | sknp _ => obtain ⟨-, rfl⟩ := exec_sknp_next_iff.1 h; simp
  | ret => obtain ⟨_, _, -, rfl⟩ := exec_ret_next_iff.1 h; rfl
  | call _ => obtain ⟨-, rfl⟩ := exec_call_next_iff.1 h; rfl
  | ldB _ => obtain ⟨-, rfl⟩ := exec_ldB_next_iff.1 h; simp
  | ldMemVx _ => obtain ⟨-, rfl⟩ := exec_ldMemVx_next_iff.1 h; simp

/-! ## PC -/

/-- No key is picked exactly when the sample is zero. -/
theorem pickKey_eq_none_iff_eq_zero {k : BitVec 16} {p : Nat} : pickKey k p = none ↔ k = 0 := by
  rw [pickKey_eq_none_iff]
  constructor
  · intro h
    exact BitVec.eq_of_getLsbD_eq fun j hj => by simpa using h ⟨j, hj⟩
  · rintro rfl j
    simp

/-- After the uniform advance a skip has gone two words on or one (10_state.md R56). -/
theorem State.skipIf_pc_add_two (s : State) (c : Bool) :
    (s.skipIf c).pc + 2 = if c then s.pc + 4 else s.pc + 2 := by
  cases c with
  | true => exact BitVec.add_assoc s.pc 2 2
  | false => rfl

/-- PC at the end of the step by the table of 10_state.md R56, for every instruction that completes. -/
theorem exec_pc {i : Instr} {s t : State} (h : exec i s = .next t) : t.pc + 2 = i.pcAfter s := by
  cases i with
  | jp _ | jpV0 _ => cases h; exact BitVec.sub_add_cancel _ _
  | call _ => obtain ⟨-, rfl⟩ := exec_call_next_iff.1 h; exact BitVec.sub_add_cancel _ _
  | ret =>
    obtain ⟨a, l, hs, rfl⟩ := exec_ret_next_iff.1 h
    simp [Instr.pcAfter, hs]
  | seImm _ _ | sneImm _ _ | seReg _ _ | sneReg _ _ =>
    cases h
    refine (s.skipIf_pc_add_two _).trans ?_
    simp [Instr.pcAfter]
  | skp _ =>
    obtain ⟨-, rfl⟩ := exec_skp_next_iff.1 h
    exact s.skipIf_pc_add_two _
  | sknp _ =>
    obtain ⟨-, rfl⟩ := exec_sknp_next_iff.1 h
    simp only [State.skipIf_pc_add_two, Instr.pcAfter]
    cases s.draws.keyDown.getLsbD (s.reg _).toNat <;> rfl
  | ldVxK _ =>
    obtain ⟨k, hk, rfl⟩ | ⟨hk, rfl⟩ := exec_ldVxK_next_iff.1 h
    · have hne : s.draws.keyDown ≠ 0 := fun h0 => by simp [pickKey_eq_none_iff_eq_zero.2 h0] at hk
      exact (if_neg hne).symm
    · simp [Instr.pcAfter, pickKey_eq_none_iff_eq_zero.1 hk]
  | cls | ldImm _ _ | addImm _ _ | ldReg _ _ | orReg _ _ | andReg _ _ | xorReg _ _ | rnd _ _ | ldVxDt _ | ldI _ | addI _
  | ldF _ | ldDtVx _ | ldStVx _ => cases h; rfl
  | addReg _ _ | sub _ _ | shr _ _ | subn _ _ | shl _ _ => cases h; simp [Instr.pcAfter]
  | drw _ _ _ => obtain ⟨-, rfl⟩ := exec_drw_next_iff.1 h; split <;> rfl
  | ldB _ => obtain ⟨-, rfl⟩ := exec_ldB_next_iff.1 h; simp [Instr.pcAfter]
  | ldMemVx _ => obtain ⟨-, rfl⟩ := exec_ldMemVx_next_iff.1 h; simp [Instr.pcAfter]
  | ldVxMem _ => obtain ⟨-, rfl⟩ := exec_ldVxMem_next_iff.1 h; rfl

/-! ## Completion -/

/-- An instruction completes wherever it raises none of its fatal halts (60_exceptions.md R210). -/
theorem exec_next_of_not_faultsIn {i : Instr} {s : State} (h : ∀ f, ¬ i.FaultsIn s f) : ∃ t, exec i s = .next t := by
  cases i with
  | ret =>
    have hs : s.stack ≠ [] := fun e => h _ ⟨e, rfl⟩
    exact ⟨_, exec_ret_next_iff.2 ⟨_, _, (List.dropLast_append_getLast hs).symm, rfl⟩⟩
  | call _ => exact ⟨_, exec_call_next_iff.2 ⟨not_le.1 fun e => h _ ⟨e, rfl⟩, rfl⟩⟩
  | skp _ => exact ⟨_, exec_skp_next_iff.2 ⟨not_lt.1 fun e => h _ ⟨e, rfl⟩, rfl⟩⟩
  | sknp _ => exact ⟨_, exec_sknp_next_iff.2 ⟨not_lt.1 fun e => h _ ⟨e, rfl⟩, rfl⟩⟩
  | drw _ _ n =>
    have hn : ¬ (0 < n ∧ 0x1000 ≤ s.i.toNat + n - 1) := fun e => h _ ⟨e.1, e.2, rfl⟩
    exact ⟨_, exec_drw_next_iff.2 ⟨by omega, rfl⟩⟩
  | ldB _ =>
    have hi : ¬ 0x1000 ≤ s.i.toNat + 2 := fun e => h _ ⟨e, rfl⟩
    exact ⟨_, exec_ldB_next_iff.2 ⟨by omega, rfl⟩⟩
  | ldMemVx _ => exact ⟨_, exec_ldMemVx_next_iff.2 ⟨not_le.1 fun e => h _ ⟨e, rfl⟩, rfl⟩⟩
  | ldVxMem _ => exact ⟨_, exec_ldVxMem_next_iff.2 ⟨not_le.1 fun e => h _ ⟨e, rfl⟩, rfl⟩⟩
  | ldVxK x =>
    cases hk : pickKey s.draws.keyDown s.draws.keyPick with
    | none => exact ⟨_, exec_ldVxK_next_iff.2 (.inr ⟨hk, rfl⟩)⟩
    | some k => exact ⟨_, exec_ldVxK_next_iff.2 (.inl ⟨k, hk, rfl⟩)⟩
  | cls | jp _ | jpV0 _ | seImm _ _ | sneImm _ _ | seReg _ _ | sneReg _ _ | ldImm _ _ | addImm _ _ | ldReg _ _ | orReg _ _
  | andReg _ _ | xorReg _ _ | addReg _ _ | sub _ _ | shr _ _ | subn _ _ | shl _ _ | rnd _ _ | ldVxDt _ | ldI _ | addI _
  | ldF _ | ldDtVx _ | ldStVx _ => exact ⟨_, rfl⟩

/-! ## The inputs of the step -/

/-- The state with another key sample and another random byte for its step (10_state.md R22, R23). -/
def State.withInputs (s : State) (k : BitVec 16) (b : Byte) : State :=
  { s with draws := { s.draws with keyDown := k, randByte := b } }

theorem State.withInputs_peeks (s : State) (k : BitVec 16) (b : Byte) (base n : Nat) :
    (s.withInputs k b).peeks base n = s.peeks base n := by
  induction n generalizing base with
  | zero => rfl
  | succ n ih => rw [State.peeks, State.peeks, ih]; rfl

theorem State.withInputs_pokes (s : State) (k : BitVec 16) (b : Byte) (base : Nat) (bs : List Byte) :
    (s.withInputs k b).pokes base bs = (s.pokes base bs).withInputs k b := by
  induction bs generalizing s base with
  | nil => rfl
  | cons c bs ih => exact ih (s.poke base c) (base + 1)

theorem State.withInputs_skipIf (s : State) (k : BitVec 16) (b : Byte) (c : Bool) :
    (s.withInputs k b).skipIf c = (s.skipIf c).withInputs k b := by
  cases c <;> rfl

theorem State.withInputs_writeFlagged (s : State) (k : BitVec 16) (b : Byte) (x y : RegIdx) (r f : Byte) :
    (s.withInputs k b).writeFlagged x y r f = (s.writeFlagged x y r f).withInputs k b := by
  have hv : (s.withInputs k b).vfHavoc x y = s.vfHavoc x y := rfl
  unfold State.writeFlagged
  rw [hv]
  split <;> rfl

/-- An instruction does the same with other inputs, where those it reads are as they were: the key sample of EX9E, EXA1 and
FX0A and the random byte of CXNN. -/
theorem exec_withInputs {i : Instr} {s t : State} {k : BitVec 16} {b : Byte}
    (hkey : k = s.draws.keyDown ∨ ∀ x, i ≠ .skp x ∧ i ≠ .sknp x ∧ i ≠ .ldVxK x)
    (hrand : b = s.draws.randByte ∨ ∀ x nn, i ≠ .rnd x nn) (h : exec i s = .next t) :
    exec i (s.withInputs k b) = .next (t.withInputs k b) := by
  cases i with
  | cls | jp _ | jpV0 _ | ldImm _ _ | addImm _ _ | ldReg _ _ | orReg _ _ | andReg _ _ | xorReg _ _ | ldVxDt _
  | ldI _ | addI _ | ldF _ | ldDtVx _ | ldStVx _ => cases h; rfl
  | seImm _ _ | sneImm _ _ | seReg _ _ | sneReg _ _ => cases h; exact congrArg _ (s.withInputs_skipIf k b _)
  | addReg _ _ | sub _ _ | shr _ _ | subn _ _ | shl _ _ =>
    cases h; exact congrArg _ (s.withInputs_writeFlagged k b _ _ _ _)
  | rnd x nn =>
    obtain rfl : b = s.draws.randByte := hrand.resolve_right fun hr => hr x nn rfl
    cases h; rfl
  | skp x =>
    obtain rfl : k = s.draws.keyDown := hkey.resolve_right fun hk => (hk x).1 rfl
    obtain ⟨hle, rfl⟩ := exec_skp_next_iff.1 h
    exact exec_skp_next_iff.2 ⟨hle, (s.withInputs_skipIf _ b _).symm⟩
  | sknp x =>
    obtain rfl : k = s.draws.keyDown := hkey.resolve_right fun hk => (hk x).2.1 rfl
    obtain ⟨hle, rfl⟩ := exec_sknp_next_iff.1 h
    exact exec_sknp_next_iff.2 ⟨hle, (s.withInputs_skipIf _ b _).symm⟩
  | ldVxK x =>
    obtain rfl : k = s.draws.keyDown := hkey.resolve_right fun hk => (hk x).2.2 rfl
    obtain ⟨j, hj, rfl⟩ | ⟨hj, rfl⟩ := exec_ldVxK_next_iff.1 h
    · exact exec_ldVxK_next_iff.2 (.inl ⟨j, hj, rfl⟩)
    · exact exec_ldVxK_next_iff.2 (.inr ⟨hj, rfl⟩)
  | drw x y n =>
    obtain ⟨hn, rfl⟩ := exec_drw_next_iff.1 h
    refine exec_drw_next_iff.2 ⟨hn, ?_⟩
    have hv : (s.withInputs k b).vfHavoc x y = s.vfHavoc x y := rfl
    rw [hv, State.withInputs_peeks]
    split <;> rfl
  | ret =>
    obtain ⟨a, l, hs, rfl⟩ := exec_ret_next_iff.1 h
    exact exec_ret_next_iff.2 ⟨a, l, hs, rfl⟩
  | call _ =>
    obtain ⟨hlen, rfl⟩ := exec_call_next_iff.1 h
    exact exec_call_next_iff.2 ⟨hlen, rfl⟩
  | ldB _ =>
    obtain ⟨hi, rfl⟩ := exec_ldB_next_iff.1 h
    exact exec_ldB_next_iff.2 ⟨hi, (s.withInputs_pokes k b _ _).symm⟩
  | ldMemVx x =>
    obtain ⟨hi, rfl⟩ := exec_ldMemVx_next_iff.1 h
    exact exec_ldMemVx_next_iff.2 ⟨hi, congrArg (State.advanceI · x) (s.withInputs_pokes k b _ _).symm⟩
  | ldVxMem _ =>
    obtain ⟨hi, rfl⟩ := exec_ldVxMem_next_iff.1 h
    refine exec_ldVxMem_next_iff.2 ⟨hi, ?_⟩
    rw [State.withInputs_peeks]; rfl

/-- Settles O30, both parts by `exec_withInputs` with one of the two inputs kept. -/
theorem inputsAreReadOnlyByTheirInstructions : Obligations.InputsAreReadOnlyByTheirInstructions := by
  refine fun i s k b => ⟨fun hkey t h => ?_, fun hrand t h => ?_⟩
  · have := exec_withInputs (k := k) (b := s.draws.randByte) (.inr hkey) (.inl rfl) h
    simpa only [State.withInputs, exec_draws h] using this
  · have := exec_withInputs (k := s.draws.keyDown) (b := b) (.inl rfl) (.inr hrand) h
    simpa only [State.withInputs, exec_draws h] using this

end Sys2Proof.Machine
end

section
/-! PROOFS. The step around an instruction and the reset state: the statements of 10_state.md about them. -/

namespace Sys2Proof.Machine

/-! ## Around the instruction -/

theorem countdown_toNat (t : Byte) : (countdown t).toNat = t.toNat - 1 := by
  unfold countdown
  split
  · simp_all
  · bv_omega

/-- A step that runs an instruction and completes is the instruction's next state, finished. -/
theorem State.Runs.step_next_iff {s t : State} {w : Word} {i : Instr} (h : s.Runs w i) :
    step s = .next t ↔ ∃ u, exec i (s.start w) = .next u ∧ t = u.finish := by
  rw [h.step_eq, finishStep_next_iff]

/-- The step's start clears the pulses and may set hires, so that the table of 10_state.md R56 reads the same. -/
theorem pcAfter_start (s : State) (w : Word) (i : Instr) : i.pcAfter (s.start w) = i.pcAfter s := by
  cases i <;> rfl

/-- The step's start clears the pulses and may set hires, so that no fault condition changes. -/
theorem faultsIn_start (s : State) (w : Word) (i : Instr) (f : Fault) :
    i.FaultsIn (s.start w) f ↔ i.FaultsIn s f := by
  cases i <;> rfl

/-- The fetched word is the sentinel only at 0x200, where memory holds its two bytes (10_state.md R53). -/
theorem State.isSentinel_peek {s : State} {w : Word} (hf : s.fetch = .ok w) (h : s.isSentinel w = true) :
    s.pc = 0x200 ∧ s.peek 0x200 = 0x12 ∧ s.peek 0x201 = 0x60 := by
  obtain ⟨hpc, rfl⟩ : s.pc = 0x200 ∧ w = hiresSentinel := of_decide_eq_true h
  have hw := State.fetch_of_lt (s := s) (by rw [hpc]; decide)
  rw [hf, hpc] at hw
  have hw : hiresSentinel = bigEndian (s.peek 0x200) (s.peek 0x201) := Except.ok.inj hw
  have hi := congrArg hiByte hw
  have lo := congrArg loByte hw
  rw [hiByte_bigEndian] at hi
  rw [loByte_bigEndian] at lo
  exact ⟨hpc, hi.symm, lo.symm⟩

/-! ## Parity -/

theorem even_add_two (a : Word) : (a + 2).toNat % 2 = a.toNat % 2 := by
  bv_omega

theorem even_add_four (a : Word) : (a + 4).toNat % 2 = a.toNat % 2 := by
  bv_omega

/-- The table of 10_state.md R56 keeps evenness: every row but the jumps adds an even number to PC or to a return address. -/
theorem pcAfter_even {s : State} {i : Instr} (hjump : ∀ nnn, i = .jp nnn ∨ i = .call nnn → nnn.toNat % 2 = 0)
    (hjpV0 : ∀ nnn, i = .jpV0 nnn → (nnn.toNat + (s.reg 0).toNat) % 2 = 0) (hpc : s.pc.toNat % 2 = 0)
    (hstack : ∀ a ∈ s.stack, a.toNat % 2 = 0) : (i.pcAfter s).toNat % 2 = 0 := by
  have two : (s.pc + 2).toNat % 2 = 0 := (even_add_two s.pc).trans hpc
  have four : (s.pc + 4).toNat % 2 = 0 := (even_add_four s.pc).trans hpc
  cases i with
  | jp nnn => exact hjump nnn (.inl rfl)
  | call nnn => exact hjump nnn (.inr rfl)
  | jpV0 nnn =>
    have := hjpV0 nnn rfl
    simp only [Instr.pcAfter, BitVec.toNat_add, BitVec.toNat_ofNat]
    omega
  | ret =>
    simp only [Instr.pcAfter, even_add_two]
    cases hl : s.stack.getLast? with
    | none => rfl
    | some a => exact hstack a (List.mem_of_getLast? hl)
  | seImm _ _ | sneImm _ _ | seReg _ _ | sneReg _ _ | skp _ | sknp _ | ldVxK _ =>
    simp only [Instr.pcAfter]
    split <;> assumption
  | cls | ldImm _ _ | addImm _ _ | ldReg _ _ | orReg _ _ | andReg _ _ | xorReg _ _ | addReg _ _ | sub _ _ | shr _ _
  | subn _ _ | shl _ _ | ldI _ | rnd _ _ | drw _ _ _ | ldVxDt _ | ldDtVx _ | ldStVx _ | addI _ | ldF _ | ldB _ | ldMemVx _
  | ldVxMem _ => exact two

/-- A return address after an instruction was one before it, or is the address a CALL stands at (10_state.md R35). -/
theorem exec_mem_stack {i : Instr} {s t : State} (h : exec i s = .next t) {a : Word} (ha : a ∈ t.stack) :
    a ∈ s.stack ∨ a = s.pc := by
  by_cases hs : t.stack = s.stack
  · exact .inl (hs ▸ ha)
  · obtain ⟨-, hw, -⟩ := exec_writers h
    obtain rfl | ⟨nnn, rfl⟩ := hw hs
    · obtain ⟨b, l, hl, rfl⟩ := exec_ret_next_iff.1 h
      exact .inl (hl ▸ List.mem_append_left _ ha)
    · obtain ⟨-, rfl⟩ := exec_call_next_iff.1 h
      simpa using ha

/-! ## The statements -/

/-- Settles O14: the table holds for the instruction in the state it starts in. -/
theorem pcAfterStepFollowsTheTable : Obligations.PcAfterStepFollowsTheTable := by
  intro s w i t hruns ht
  obtain ⟨u, hu, rfl⟩ := hruns.step_next_iff.1 ht
  exact (exec_pc hu).trans (pcAfter_start s w i)

/-- Settles O15: the instruction completes, and writes no run state. -/
theorem stepCompletesUnlessItHalts : Obligations.StepCompletesUnlessItHalts := by
  intro s w i hruns hf
  obtain ⟨u, hu⟩ := exec_next_of_not_faultsIn fun f h => hf f ((faultsIn_start s w i f).1 h)
  exact ⟨u.finish, hruns.step_next_iff.2 ⟨u, hu, rfl⟩, (exec_runState hu).trans hruns.fetches.running⟩

/-- Settles O17: PC by the table of R56, the return addresses by what CALL and RET do to the stack. -/
theorem evenTargetsKeepPcEven : Obligations.EvenTargetsKeepPcEven := by
  intro s w i t hruns ht hjump hjpV0 hpc hstack
  obtain ⟨u, hu, rfl⟩ := hruns.step_next_iff.1 ht
  constructor
  · rw [pcAfterStepFollowsTheTable s w i _ hruns ht]
    exact pcAfter_even hjump hjpV0 hpc hstack
  · intro a ha
    obtain h | rfl := exec_mem_stack hu ha
    · exact hstack a h
    · exact hpc

/-- Settles O9: below the end a completed step halts for another reason, or has run an instruction, which writes no
run state. -/
theorem endOfProgramHaltsFirst : Obligations.EndOfProgramHaltsFirst := by
  intro s hrun
  constructor
  · intro hend
    have he : s.clearPulses.atEnd = true := s.clearPulses.atEnd_eq_true_iff.2 hend
    have hd : s.clearPulses.fetchDecode = .halt .endOfProgram s.pc := if_pos he
    rw [step_running hrun, hd]
    rfl
  · intro hlt t a ht hhalt
    obtain ⟨-, ⟨w, i, u, v, hd, hv, rfl⟩ | ⟨r, b, hd, -, rfl⟩⟩ := step_next ht
    · obtain ⟨-, w', -, -, -, rfl⟩ := State.fetchDecode_run_iff.1 hd
      have hv : v.runState = .running := by simpa [hrun] using exec_runState hv
      rw [State.finish_runState, hv] at hhalt
      cases hhalt
    · cases hhalt
      obtain ⟨-, he, -⟩ | ⟨hr, -⟩ | ⟨hr, -⟩ := State.fetchDecode_halt hd
      · have := s.clearPulses.atEnd_eq_true_iff.1 he
        exact absurd hlt (not_lt.2 this)
      · cases hr
      · cases hr

/-- Settles O11: the sentinel runs as JP 0x2C0 with hires set; no instruction writes hires, and a halt keeps it. -/
theorem sentinelAloneSwitchesToHires : Obligations.SentinelAloneSwitchesToHires := by
  constructor
  · intro s hf hpc
    have hruns : s.Runs 0x1260 (.jp 0x2C0) := ⟨hf, by rw [if_pos ⟨hpc, rfl⟩]; decide⟩
    refine ⟨_, hruns.step_next_iff.2 ⟨_, rfl, rfl⟩, ?_, rfl, ?_⟩
    · simp [State.start, hpc]
    · simp [State.start, State.finish, State.jumpTo, State.advance, State.timerTick, State.redraw, hpc]
  · intro s t ht hne
    obtain ⟨-, ⟨w, i, u, v, hd, hv, rfl⟩ | ⟨r, a, -, -, rfl⟩⟩ := step_next ht
    · obtain ⟨-, w', hf, -, -, rfl⟩ := State.fetchDecode_run_iff.1 hd
      have hh : v.finish.hires = (s.hires || s.isSentinel w') := by simp [exec_hires hv]
      cases hs : s.isSentinel w' with
      | false => exact absurd (by rw [hh, hs, Bool.or_false]) hne
      | true =>
        obtain ⟨hpc, hi, lo⟩ := State.isSentinel_peek hf hs
        exact ⟨by rw [hh, hs, Bool.or_true], hpc, hi, lo⟩
    · exact absurd rfl hne

/-- Settles O8: a step is `exec` between the start and the finish. -/
theorem stepRunsTheDecodedInstruction : Obligations.StepRunsTheDecodedInstruction := by
  intro s w i hruns
  constructor
  · intro u hu
    exact ⟨u.finish, hruns.step_next_iff.2 ⟨u, hu, rfl⟩, rfl, countdown_toNat _, countdown_toNat _, rfl, rfl, rfl, rfl⟩
  · intro f hf
    rw [hruns.step_eq, hf]
    rfl

/-- Settles O10, by the run state that a step looks at first. -/
theorem stepMovesOnlyWhileRunning : Obligations.StepMovesOnlyWhileRunning := by
  intro s
  have hload : s.runState = .notLoaded → step s = .fault .stepNotLoaded := fun h => by simp [step, h]
  have hhalt : ∀ r a, s.runState = .halted r a → step s = .fault .stepAfterHalt := fun r a h => by simp [step, h]
  refine ⟨hload, hhalt, fun t ht => (step_next ht).1, fun r hr => ?_⟩
  cases hs : s.runState with
  | running => rfl
  | notLoaded => simp [hload hs] at hr
  | halted reason info => simp [hhalt reason info hs] at hr

theorem reset_resetElements : State.reset.ResetElements where
  v r := by simp [State.reg, State.reset]
  i := rfl
  pc := rfl
  stack := rfl
  dt := rfl
  st := rfl
  hires := rfl
  fb := FrameBuf.cell_blank

/-- Settles O23: a LOAD without a usable image leaves the cleared state, which is the reset state but for the draws. -/
theorem resetIsAFailedLoad : Obligations.ResetIsAFailedLoad := by
  refine ⟨reset_resetElements, fun image hbad => ?_⟩
  have hload : State.reset.load image = State.reset.cleared := by
    cases image with
    | none => exact State.reset.load_none
    | some bytes => exact State.reset.load_of_bad (hbad bytes rfl)
  rw [hload]
  rfl

/-- Settles O24, field by field. -/
theorem resetMeetsTheInvariant : Obligations.ResetMeetsTheInvariant where
  mem := ⟨List.Pairwise.nil, fun p hp => nomatch hp⟩
  stack := Nat.zero_le _
  progLen := Nat.zero_le _
  loaded := by decide
  lenLoaded := by decide
  inactive := fun _ c _ => FrameBuf.cell_blank c

end Sys2Proof.Machine
end

section
/-! PROOFS. Memory and the machine's invariant: the fetch, the stores, and what every step and every host command keeps. -/

namespace Sys2Proof.Machine

/-! ## The fetch -/

/-- At the last address of memory the second byte of the fetch is out of range (20_memory.md R63, R65). -/
theorem State.fetch_of_pc_eq_FFF {s : State} (h : s.pc = 0xFFF) : s.fetch = .error 0x1000 := by
  unfold State.fetch
  rw [h, State.memRead_of_lt (by decide)]
  rfl

/-- Settles O7: the fetch inside memory by `fetch_of_lt`; a PC below the end of the longest image whose second byte is out of
range is 0xFFF. -/
theorem fetchReadsBigEndianOrFaults : Obligations.FetchReadsBigEndianOrFaults := by
  refine fun s => ⟨fun h => ⟨_, State.fetch_of_lt h, bigEndian_toNat _ _⟩, fun hrun hlen hend hout => ?_⟩
  have hpc : s.pc = 0xFFF := BitVec.eq_of_toNat_eq (show s.pc.toNat = 0xFFF by omega)
  have he : s.clearPulses.atEnd = false := s.clearPulses.atEnd_eq_false_iff.2 hend
  have hd : s.clearPulses.fetchDecode = .halt .memoryBounds 0x1000 := by
    unfold State.fetchDecode
    rw [he, State.fetch_of_pc_eq_FFF (s := s.clearPulses) hpc]
    rfl
  refine ⟨hpc, ?_⟩
  rw [step_running hrun, hd]
  rfl

/-! ## What an instruction stores -/

theorem State.peek_congr {s t : State} (hmem : t.mem = s.mem) (hcfg : t.cfg = s.cfg) (a : Nat) : t.peek a = s.peek a := by
  unfold State.peek
  rw [hmem, hcfg]

/-- Memory after an instruction that completes: as many bytes as the instruction stores, written from I up and inside
0x000 to 0xFFF. -/
theorem exec_mem {i : Instr} {s t : State} (h : exec i s = .next t) :
    ∃ bs, bs.length = i.storedBytes ∧ (bs = [] ∨ s.i.toNat + bs.length ≤ 0x1000) ∧
      t.mem = (s.pokes s.i.toNat bs).mem := by
  cases i with
  | ldB x =>
    obtain ⟨hi, rfl⟩ := exec_ldB_next_iff.1 h
    exact ⟨bcdDigits (s.reg x), rfl, .inr hi, rfl⟩
  | ldMemVx x =>
    obtain ⟨hi, rfl⟩ := exec_ldMemVx_next_iff.1 h
    exact ⟨s.regsUpTo x, s.regsUpTo_length x, .inr (by rw [s.regsUpTo_length x]; omega), rfl⟩
  | cls | jp _ | jpV0 _ | ldImm _ _ | addImm _ _ | ldReg _ _ | orReg _ _ | andReg _ _ | xorReg _ _ | rnd _ _ | ldVxDt _
  | ldI _ | addI _ | ldF _ | ldDtVx _ | ldStVx _ => cases h; exact ⟨[], rfl, .inl rfl, rfl⟩
  | seImm _ _ | sneImm _ _ | seReg _ _ | sneReg _ _ => cases h; exact ⟨[], rfl, .inl rfl, s.skipIf_mem _⟩
  | addReg _ _ | sub _ _ | shr _ _ | subn _ _ | shl _ _ =>
    cases h; exact ⟨[], rfl, .inl rfl, s.writeFlagged_mem _ _ _ _⟩
  | skp _ => obtain ⟨-, rfl⟩ := exec_skp_next_iff.1 h; exact ⟨[], rfl, .inl rfl, s.skipIf_mem _⟩
  | sknp _ => obtain ⟨-, rfl⟩ := exec_sknp_next_iff.1 h; exact ⟨[], rfl, .inl rfl, s.skipIf_mem _⟩
  | drw _ _ _ => obtain ⟨-, rfl⟩ := exec_drw_next_iff.1 h; split <;> exact ⟨[], rfl, .inl rfl, rfl⟩
  | ret => obtain ⟨_, _, -, rfl⟩ := exec_ret_next_iff.1 h; exact ⟨[], rfl, .inl rfl, rfl⟩
  | call _ => obtain ⟨-, rfl⟩ := exec_call_next_iff.1 h; exact ⟨[], rfl, .inl rfl, rfl⟩
  | ldVxK _ => obtain ⟨_, -, rfl⟩ | ⟨-, rfl⟩ := exec_ldVxK_next_iff.1 h <;> exact ⟨[], rfl, .inl rfl, rfl⟩
  | ldVxMem _ => obtain ⟨-, rfl⟩ := exec_ldVxMem_next_iff.1 h; exact ⟨[], rfl, .inl rfl, rfl⟩

theorem exec_cfg {i : Instr} {s t : State} (h : exec i s = .next t) : t.cfg = s.cfg := by
  rw [exec_frame h]

/-- Settles O28: the bytes that `exec_mem` names are written, and no others. -/
theorem memoryIsWrittenOnlyByStores : Obligations.MemoryIsWrittenOnlyByStores := by
  intro i s t h a ha
  obtain ⟨bs, hlen, -, hmem⟩ := exec_mem h
  have hcfg : t.cfg = (s.pokes s.i.toNat bs).cfg := (exec_cfg h).trans (s.pokes_cfg _ _).symm
  rw [State.peek_congr hmem hcfg]
  exact s.peek_pokes_outside _ _ a (hlen ▸ ha)

/-- FX55 leaves V[k] at I + k, for every k up to X (42_index_memory.md R154). -/
theorem exec_ldMemVx_peek {s t : State} {x k : RegIdx} (h : exec (.ldMemVx x) s = .next t) (hk : k ≤ x) :
    t.peek (s.i.toNat + k.val) = s.reg k := by
  obtain ⟨-, rfl⟩ := exec_ldMemVx_next_iff.1 h
  have hlen : k.val < (s.regsUpTo x).length := by rw [State.regsUpTo_length]; exact Nat.lt_succ_of_le hk
  exact (s.peek_pokes_inside _ _ _ hlen).trans (s.regsUpTo_getElem x _ hlen)

/-- Settles O31: V0 and V1 stand at I and I + 1, and the fetch there reads them. -/
theorem storedBytesAreFetched : Obligations.StoredBytesAreFetched := by
  intro x s t u hx h hmem hcfg hpc
  obtain ⟨hi, -⟩ := exec_ldMemVx_next_iff.1 h
  have h0 : u.peek u.pc.toNat = s.reg 0 := by
    rw [hpc, State.peek_congr hmem hcfg]; exact exec_ldMemVx_peek h (Fin.zero_le x)
  have h1 : u.peek (u.pc.toNat + 1) = s.reg 1 := by
    rw [hpc, State.peek_congr hmem hcfg]; exact exec_ldMemVx_peek (k := 1) h hx
  refine ⟨_, State.fetch_of_lt (by rw [hpc]; omega), ?_⟩
  rw [h0, h1]
  exact bigEndian_toNat _ _

/-! ## What an instruction keeps of the invariant -/

theorem exec_mem_wf {i : Instr} {s t : State} (h : exec i s = .next t) (hwf : Memory.wf s.cfg.font s.mem) :
    Memory.wf t.cfg.font t.mem := by
  obtain ⟨bs, -, hbs, hmem⟩ := exec_mem h
  rw [exec_cfg h, hmem]
  obtain rfl | hle := hbs
  · exact hwf
  · exact State.pokes_wf hwf hle

/-- RET shortens the stack, and CALL lengthens it only below STACK_DEPTH (10_state.md R33). -/
theorem exec_stack_length_le {i : Instr} {s t : State} (h : exec i s = .next t) (hs : s.stack.length ≤ stackDepth) :
    t.stack.length ≤ stackDepth := by
  by_cases heq : t.stack = s.stack
  · exact heq ▸ hs
  · obtain ⟨-, hw, -⟩ := exec_writers h
    obtain rfl | ⟨nnn, rfl⟩ := hw heq
    · obtain ⟨a, l, hl, rfl⟩ := exec_ret_next_iff.1 h
      rw [hl, List.length_append] at hs
      exact Nat.le_of_add_right_le hs
    · obtain ⟨hlt, rfl⟩ := exec_call_next_iff.1 h
      simpa using hlt

/-- A draw leaves every cell that is not among the sprite's. -/
theorem drawCells_cell_of_notMem {cs : List Nat} (hb : ∀ c ∈ cs, c < 4096) (p : FrameBuf × Bool) {d : Nat} (hd : d ∉ cs) :
    FrameBuf.cell (drawCells cs p).1 d = FrameBuf.cell p.1 d := by
  induction cs generalizing p with
  | nil => rfl
  | cons c cs ih =>
    obtain ⟨hdc, hd⟩ := not_or.1 (mt List.mem_cons.2 hd)
    rw [drawCells, List.foldl_cons, ← drawCells, ih (fun c h => hb c (List.mem_cons_of_mem _ h)) _ hd,
      FrameBuf.cell_toggle _ (hb c List.mem_cons_self), decide_eq_false hdc, Bool.xor_false]

/-- A sprite lights active cells only, however many rows it has. -/
theorem State.drawSprite_cell_of_inactive (s : State) (x y : RegIdx) (rows : List Byte) {c : Nat} (hc : s.cells ≤ c) :
    FrameBuf.cell (s.drawSprite x y rows).1 c = FrameBuf.cell s.fb c := by
  have hC : 0 < s.cells ∧ s.cells ≤ 4096 := by rcases s.cells_cases with ⟨h, _⟩ | ⟨h, _⟩ <;> omega
  refine drawCells_cell_of_notMem (fun d hd => ?_) _ fun hd => ?_
  · exact (spriteCells_lt hC.1 hd).trans_le hC.2
  · exact absurd (spriteCells_lt hC.1 hd) (not_lt.2 hc)

/-- A DRW leaves the inactive cells, under `latched` and under `havoc` (43_display.md R172, R173). -/
theorem exec_drw_cell_of_inactive {s t : State} {x y : RegIdx} {n c : Nat} (h : exec (.drw x y n) s = .next t)
    (hc : s.cells ≤ c) : FrameBuf.cell t.fb c = FrameBuf.cell s.fb c := by
  obtain ⟨-, rfl⟩ := exec_drw_next_iff.1 h
  split
  · have hrow : ¬ c / 64 < s.cells / 64 := not_lt.2 (Nat.div_le_div_right hc)
    exact (havocRows_cell _ _ _ c).trans (if_neg hrow)
  · exact s.drawSprite_cell_of_inactive x y _ hc

/-- An inactive cell that is 0 stays 0: CLS clears it, DRW leaves it, and nothing else writes the framebuffer. -/
theorem exec_cell_of_inactive {i : Instr} {s t : State} {c : Nat} (h : exec i s = .next t) (hc : s.cells ≤ c)
    (h0 : FrameBuf.cell s.fb c = false) : FrameBuf.cell t.fb c = false := by
  by_cases heq : t.fb = s.fb
  · exact heq ▸ h0
  · obtain ⟨-, -, -, -, hw⟩ := exec_writers h
    obtain rfl | ⟨x, y, n, rfl⟩ := hw heq
    · cases h; exact FrameBuf.cell_blank c
    · exact (exec_drw_cell_of_inactive h hc).trans h0

/-- Every instruction keeps the invariant, those no word encodes too. -/
theorem exec_inv {i : Instr} {s t : State} (h : exec i s = .next t) (hs : s.Inv) : t.Inv where
  mem := exec_mem_wf h hs.mem
  stack := exec_stack_length_le h hs.stack
  progLen := by rw [exec_frame h]; exact hs.progLen
  loaded := by rw [exec_frame h]; exact hs.loaded
  lenLoaded := by rw [exec_frame h]; exact hs.lenLoaded
  inactive := by
    intro hlow c hc
    rw [exec_hires h] at hlow
    exact exec_cell_of_inactive h (by simpa [State.cells, hlow] using hc) (hs.inactive hlow c hc)

/-! ## What a step keeps -/

/-- The sentinel can only set hires, and in hi-res no cell is inactive. -/
theorem State.Inv.start {s : State} (hs : s.Inv) (w : Word) : (s.start w).Inv :=
  { hs with inactive := fun hlow => hs.inactive (Bool.or_eq_false_iff.1 hlow).1 }

theorem State.Inv.finish {s : State} (hs : s.Inv) : s.finish.Inv := { hs with }

/-- A halt keeps the invariant where a program is loaded, as it is in every running state (10_state.md R45). -/
theorem State.Inv.haltEntry {s : State} (hs : s.Inv) (hrun : s.runState = .running) (r : HaltReason) (a : Word) :
    (s.haltEntry r a).Inv :=
  have hloaded : s.gameLoaded = true := hs.loaded.2 (by rw [hrun]; exact nofun)
  { hs with loaded := iff_of_true hloaded nofun }

/-- Settles O25: a step halts cleanly or runs an instruction between its start and its finish, and each of these keeps the
invariant. -/
theorem stepKeepsTheInvariant : Obligations.StepKeepsTheInvariant := by
  intro s t hs ht
  obtain ⟨hrun, ⟨w, i, u, v, hd, hv, rfl⟩ | ⟨r, a, -, -, rfl⟩⟩ := step_next ht
  · obtain ⟨-, w', -, -, -, rfl⟩ := State.fetchDecode_run_iff.1 hd
    rw [s.sniff_eq_start] at hv
    exact (exec_inv hv (hs.start w')).finish
  · exact hs.haltEntry hrun r a

/-! ## What a command keeps -/

/-- A fault that stands for a halt is raised in a running state: the two stuck states stand for none (10_state.md R50). -/
theorem step_fault_running {s : State} {f : Fault} {p : HaltReason × Word} (h : step s = .fault f)
    (hf : f.halt? = some p) : s.runState = .running := by
  obtain ⟨hload, hhalt, -, -⟩ := stepMovesOnlyWhileRunning s
  cases hs : s.runState with
  | running => rfl
  | notLoaded => cases h.symm.trans (hload hs); cases hf
  | halted r a => cases h.symm.trans (hhalt r a hs); cases hf

/-- Everything a STEP command that answers a state can have done: a step, or the entry of a fatal halt
(60_exceptions.md R215). -/
theorem State.stepCommand_next {s t : State} (h : s.stepCommand = .next t) :
    step s = .next t ∨ s.runState = .running ∧ ∃ r a, t = s.haltEntry r a := by
  unfold State.stepCommand at h
  cases hstep : step s with
  | next u => exact .inl (by simpa [hstep] using h)
  | refused e => simp [hstep] at h
  | fault f =>
    simp only [hstep] at h
    cases hf : f.halt? with
    | none => simp [hf] at h
    | some p =>
      rw [hf] at h
      cases h
      exact .inr ⟨step_fault_running hstep hf, p.1, p.2, rfl⟩

theorem State.cleared_inv (s : State) : s.cleared.Inv where
  mem := ⟨List.Pairwise.nil, nofun⟩
  stack := Nat.zero_le _
  progLen := Nat.zero_le _
  loaded := iff_of_false nofun fun h => h rfl
  lenLoaded := iff_of_false nofun nofun
  inactive := fun _ c _ => FrameBuf.cell_blank c

/-- A LOAD establishes the invariant from any state: with a usable image by the bytes placed in the cleared state, with any
other by the cleared state (70_reset_and_hazards.md R241 to R243). -/
theorem State.load_inv (image : Option (List Byte)) (s : State) : (s.load image).Inv := by
  cases image with
  | none => exact s.cleared_inv
  | some bytes =>
    by_cases hok : 1 ≤ bytes.length ∧ bytes.length ≤ 3584
    · obtain ⟨h1, h2⟩ := hok
      rw [s.load_of_ok h1 h2]
      have hmem := State.pokes_wf (base := 0x200) (bs := bytes) s.cleared_inv.mem (by omega)
      have hfont : (s.cleared.pokes 0x200 bytes).cfg = s.cleared.cfg := State.pokes_cfg _ _ _
      exact {
        mem := hfont ▸ hmem
        stack := by simp
        progLen := h2
        loaded := iff_of_true rfl nofun
        lenLoaded := iff_of_true rfl h1
        inactive := fun _ c _ => by simp }
    · rw [s.load_of_bad (by omega)]
      exact s.cleared_inv

/-- Settles O26: LOAD by `load_inv`, STEP by the invariance of a step and of the halt entry, RENDER changes no state. -/
theorem commandsKeepTheInvariant : Obligations.CommandsKeepTheInvariant := by
  refine ⟨fun c s t hs h => ?_, State.load_inv⟩
  cases c with
  | load image => cases h; exact s.load_inv image
  | render => cases h; exact hs
  | step =>
    obtain hstep | ⟨hrun, r, a, rfl⟩ := State.stepCommand_next h
    · exact stepKeepsTheInvariant s t hs hstep
    · exact hs.haltEntry hrun r a

end Sys2Proof.Machine
end

section
/-! PROOFS. Decode and encode: each undoes the other, the rows of the opcode map, and the words that are no instruction
(30_encoding.md). -/

namespace Sys2Proof

/-! ## A word is its fields (30_encoding.md R81) -/

theorem wordNNN_fieldNNN {f : Nat} {w : Word} (hF : fieldF w = f) : wordNNN f (fieldNNN w) = w := by
  apply BitVec.eq_of_toNat_eq
  rw [wordNNN_toNat (hF ▸ fieldF_lt w) (by rw [fieldNNN_toNat]; omega), fieldNNN_toNat, ← hF, fieldF]
  omega

theorem wordXNN_fields {f : Nat} {nn : Byte} {w : Word} (hF : fieldF w = f) (hNN : fieldNN w = nn) :
    wordXNN f (fieldX w) nn = w := by
  apply BitVec.eq_of_toNat_eq
  rw [wordXNN_toNat _ _ (hF ▸ fieldF_lt w), ← hNN, fieldNN_toNat, fieldX_val, ← hF, fieldF]
  omega

theorem nibbles_fields {f n : Nat} {w : Word} (hF : fieldF w = f) (hN : fieldN w = n) :
    nibbles f (fieldX w) (fieldY w) n = w := by
  apply BitVec.eq_of_toNat_eq
  rw [nibbles_toNat (hF ▸ fieldF_lt w) (fieldX w).isLt (fieldY w).isLt (hN ▸ fieldN_lt w), fieldX_val, fieldY_val, ← hF,
    ← hN, fieldF, fieldN]
  omega

theorem addrOk_fieldNNN (w : Word) : Instr.addrOk (fieldNNN w) = true := by
  apply decide_eq_true
  rw [fieldNNN_toNat]
  omega

theorem countOk_fieldN (w : Word) : Instr.countOk (fieldN w) = true := decide_eq_true (fieldN_lt w)

theorem fieldN_eq_fieldNN_mod (w : Word) : fieldN w = (fieldNN w).toNat % 16 := by
  rw [fieldNN_toNat, fieldN]
  omega

/-! ## Encode, then decode -/

/-- Decoding undoes encoding, by the shape of the pattern: fixed words, `FNNN`, `FXNN`, `FXYN`, and a fixed bottom byte. -/
theorem decode_encode {i : Instr} (h : i.wf = true) : decode (encode i) = .instr i := by
  cases i with
  | cls | ret => decide
  | jp _ | call _ | ldI _ | jpV0 _ =>
    have h := of_decide_eq_true h
    simp [encode, decode, fieldF_wordNNN, fieldNNN_wordNNN, h]
  | seImm _ _ | sneImm _ _ | ldImm _ _ | addImm _ _ | rnd _ _ =>
    simp [encode, decode, fieldF_wordXNN, fieldX_wordXNN, fieldNN_wordXNN]
  | seReg _ _ | sneReg _ _ =>
    simp [encode, decode, fieldF_nibbles, fieldX_nibbles, fieldY_nibbles, fieldN_nibbles]
  | drw _ _ _ =>
    have h := of_decide_eq_true h
    simp [encode, decode, fieldF_nibbles, fieldX_nibbles, fieldY_nibbles, fieldN_nibbles, h]
  | ldReg _ _ | orReg _ _ | andReg _ _ | xorReg _ _ | addReg _ _ | sub _ _ | shr _ _ | subn _ _ | shl _ _ =>
    simp [encode, decode, decode8, fieldF_nibbles, fieldX_nibbles, fieldY_nibbles, fieldN_nibbles]
  | skp _ | sknp _ => simp [encode, decode, decodeE, fieldF_wordXNN, fieldX_wordXNN, fieldNN_wordXNN]
  | ldVxDt _ | ldVxK _ | ldDtVx _ | ldStVx _ | addI _ | ldF _ | ldB _ | ldMemVx _ | ldVxMem _ =>
    simp [encode, decode, decodeF, fieldF_wordXNN, fieldX_wordXNN, fieldNN_wordXNN]

/-- Settles O1: the word by `decode_encode`, the bytes because they are the word's two, high byte first. -/
theorem decodeOfEncodeIsTheInstruction : Obligations.DecodeOfEncodeIsTheInstruction := by
  intro i rest h
  refine ⟨decode_encode h, ?_⟩
  simp [encodeBytes, decodeBytes, decode_encode h]

/-! ## Decode, then encode -/

theorem encode_of_decode0 {w : Word} {i : Instr} (h : decode0 w = .instr i) : i.wf = true ∧ encode i = w := by
  unfold decode0 at h
  split at h
  · next hw => cases h; exact ⟨rfl, hw.symm⟩
  split at h
  · next hw => cases h; exact ⟨rfl, hw.symm⟩
  split at h <;> cases h

theorem encode_of_decode8 {w : Word} {i : Instr} (hF : fieldF w = 8) (h : decode8 w = .instr i) :
    i.wf = true ∧ encode i = w := by
  unfold decode8 at h
  split at h <;> cases h <;> exact ⟨rfl, nibbles_fields hF ‹_›⟩

theorem encode_of_decodeE {w : Word} {i : Instr} (hF : fieldF w = 0xE) (h : decodeE w = .instr i) :
    i.wf = true ∧ encode i = w := by
  unfold decodeE at h
  split at h
  · next hNN => cases h; exact ⟨rfl, wordXNN_fields hF hNN⟩
  split at h
  · next hNN => cases h; exact ⟨rfl, wordXNN_fields hF hNN⟩
  split at h <;> cases h

theorem encode_of_decodeF {w : Word} {i : Instr} (hF : fieldF w = 0xF) (h : decodeF w = .instr i) :
    i.wf = true ∧ encode i = w := by
  unfold decodeF at h
  split at h <;> cases h <;> exact ⟨rfl, wordXNN_fields hF (BitVec.eq_of_toNat_eq ‹_›)⟩

/-- Encoding undoes decoding, family by family; the last arm of `decode` is family F, the largest top nibble. -/
theorem encode_of_decode {w : Word} {i : Instr} (h : decode w = .instr i) : i.wf = true ∧ encode i = w := by
  have hlt := fieldF_lt w
  unfold decode at h
  split at h
  case h_1 => exact encode_of_decode0 h
  case h_9 hF => exact encode_of_decode8 hF h
  case h_15 hF => exact encode_of_decodeE hF h
  case h_16 =>
    have hF : fieldF w = 0xF := by grind
    exact encode_of_decodeF hF h
  case h_2 hF | h_3 hF | h_11 hF | h_12 hF =>
    cases h; exact ⟨addrOk_fieldNNN w, wordNNN_fieldNNN hF⟩
  case h_4 hF | h_5 hF | h_7 hF | h_8 hF | h_13 hF =>
    cases h; exact ⟨rfl, wordXNN_fields hF rfl⟩
  case h_14 hF => cases h; exact ⟨countOk_fieldN w, nibbles_fields hF rfl⟩
  case h_6 hF | h_10 hF =>
    split at h
    · next hN => cases h; exact ⟨rfl, nibbles_fields hF hN⟩
    · cases h

/-- Settles O2, by `encode_of_decode`. -/
theorem encodeOfDecodeIsTheWord : Obligations.EncodeOfDecodeIsTheWord := fun _ _ h => encode_of_decode h

/-! ## The rows of the opcode map (30_encoding.md R86) -/

/-- The word of a well-formed instruction has the fixed bits of its row. -/
theorem rowBits : ∀ i : Instr, Laws.RowBits.Statement i
  | .cls => Laws.RowBits.cls
  | .ret => Laws.RowBits.ret
  | .jp nnn => Laws.RowBits.jp nnn
  | .call nnn => Laws.RowBits.call nnn
  | .seImm x nn => Laws.RowBits.seImm x nn
  | .sneImm x nn => Laws.RowBits.sneImm x nn
  | .seReg x y => Laws.RowBits.seReg x y
  | .ldImm x nn => Laws.RowBits.ldImm x nn
  | .addImm x nn => Laws.RowBits.addImm x nn
  | .ldReg x y => Laws.RowBits.ldReg x y
  | .orReg x y => Laws.RowBits.orReg x y
  | .andReg x y => Laws.RowBits.andReg x y
  | .xorReg x y => Laws.RowBits.xorReg x y
  | .addReg x y => Laws.RowBits.addReg x y
  | .sub x y => Laws.RowBits.sub x y
  | .shr x y => Laws.RowBits.shr x y
  | .subn x y => Laws.RowBits.subn x y
  | .shl x y => Laws.RowBits.shl x y
  | .sneReg x y => Laws.RowBits.sneReg x y
  | .ldI nnn => Laws.RowBits.ldI nnn
  | .jpV0 nnn => Laws.RowBits.jpV0 nnn
  | .rnd x nn => Laws.RowBits.rnd x nn
  | .drw x y n => Laws.RowBits.drw x y n
  | .skp x => Laws.RowBits.skp x
  | .sknp x => Laws.RowBits.sknp x
  | .ldVxDt x => Laws.RowBits.ldVxDt x
  | .ldVxK x => Laws.RowBits.ldVxK x
  | .ldDtVx x => Laws.RowBits.ldDtVx x
  | .ldStVx x => Laws.RowBits.ldStVx x
  | .addI x => Laws.RowBits.addI x
  | .ldF x => Laws.RowBits.ldF x
  | .ldB x => Laws.RowBits.ldB x
  | .ldMemVx x => Laws.RowBits.ldMemVx x
  | .ldVxMem x => Laws.RowBits.ldVxMem x

/-- What the mnemonic of a word depends on in a family: the whole word, the top nibble, or the top nibble with the bottom
nibble or the bottom byte (30_encoding.md R84, R85). -/
def familyMask : Nat → Word
  | 0x0 => 0xFFFF
  | 0x5 | 0x8 | 0x9 => 0xF00F
  | 0xE | 0xF => 0xF0FF
  | _ => 0xF000

/-- The mnemonic of the instruction a word decodes to, where it decodes to one. -/
def Decoded.mnemonic : Decoded → Option String
  | .instr i => some i.mnemonic
  | .unknown => none
  | .ambiguous => none

theorem Decoded.mnemonic_eq_some_iff {d : Decoded} {m : String} :
    d.mnemonic = some m ↔ ∃ i, d = .instr i ∧ i.mnemonic = m := by
  cases d <;> simp [Decoded.mnemonic]

theorem fieldF_eq_of_and_F000 {v w : Word} (h : w &&& 0xF000 = v &&& 0xF000) : fieldF w = fieldF v := by
  have h := congrArg BitVec.toNat h
  rw [and_F000_toNat, and_F000_toNat] at h
  unfold fieldF
  omega

theorem fields_eq_of_and_F00F {v w : Word} (h : w &&& 0xF00F = v &&& 0xF00F) :
    fieldF w = fieldF v ∧ fieldN w = fieldN v := by
  have h := congrArg BitVec.toNat h
  rw [and_F00F_toNat, and_F00F_toNat] at h
  unfold fieldF fieldN
  omega

theorem fields_eq_of_and_F0FF {v w : Word} (h : w &&& 0xF0FF = v &&& 0xF0FF) :
    fieldF w = fieldF v ∧ fieldNN w = fieldNN v := by
  have h := congrArg BitVec.toNat h
  rw [and_F0FF_toNat, and_F0FF_toNat] at h
  refine ⟨by unfold fieldF; omega, BitVec.eq_of_toNat_eq ?_⟩
  rw [fieldNN_toNat, fieldNN_toNat]
  omega

theorem eq_of_and_FFFF {v w : Word} (h : w &&& 0xFFFF = v &&& 0xFFFF) : w = v := by
  have h := congrArg BitVec.toNat h
  rw [and_FFFF_toNat, and_FFFF_toNat] at h
  exact BitVec.eq_of_toNat_eq h

theorem decode8_mnemonic_congr {v w : Word} (hN : fieldN w = fieldN v) :
    (decode8 w).mnemonic = (decode8 v).mnemonic := by
  unfold decode8
  rw [hN]
  split <;> rfl

theorem decodeE_mnemonic_congr {v w : Word} (hNN : fieldNN w = fieldNN v) :
    (decodeE w).mnemonic = (decodeE v).mnemonic := by
  have hN : fieldN w = fieldN v := by rw [fieldN_eq_fieldNN_mod, hNN, ← fieldN_eq_fieldNN_mod]
  unfold decodeE
  rw [hNN, hN]
  split
  · rfl
  split
  · rfl
  split <;> rfl

theorem decodeF_mnemonic_congr {v w : Word} (hNN : fieldNN w = fieldNN v) :
    (decodeF w).mnemonic = (decodeF v).mnemonic := by
  unfold decodeF
  rw [hNN]
  split <;> rfl

/-- Words of one family that agree on its mask decode to the same mnemonic, or neither to an instruction. -/
theorem decode_mnemonic_congr {v w : Word} (h : w &&& familyMask (fieldF v) = v &&& familyMask (fieldF v)) :
    (decode w).mnemonic = (decode v).mnemonic := by
  unfold familyMask at h
  split at h
  case h_1 => rw [eq_of_and_FFFF h]
  case h_2 hv | h_4 hv =>
    obtain ⟨hF, hN⟩ := fields_eq_of_and_F00F h
    simp only [decode, hF, hv, hN]
    split <;> rfl
  case h_3 hv =>
    obtain ⟨hF, hN⟩ := fields_eq_of_and_F00F h
    simpa only [decode, hF, hv] using decode8_mnemonic_congr hN
  case h_5 hv =>
    obtain ⟨hF, hNN⟩ := fields_eq_of_and_F0FF h
    simpa only [decode, hF, hv] using decodeE_mnemonic_congr hNN
  case h_6 hv =>
    obtain ⟨hF, hNN⟩ := fields_eq_of_and_F0FF h
    simpa only [decode, hF, hv] using decodeF_mnemonic_congr hNN
  case h_7 h0 h5 h8 h9 hE hF' =>
    have hlt := fieldF_lt v
    have hF := fieldF_eq_of_and_F000 h
    simp only [decode, hF]
    split
    case h_1 hv => exact absurd hv h0
    case h_6 hv => exact absurd hv h5
    case h_9 hv => exact absurd hv h8
    case h_10 hv => exact absurd hv h9
    case h_15 hv => exact absurd hv hE
    case h_16 =>
      have hv : fieldF v = 0xF := by grind
      exact absurd hv hF'
    all_goals rfl

/-- Every row's mask is its family's, and its value decodes to its mnemonic. -/
theorem opcodeRows_mask_value : ∀ r ∈ opcodeRows, r.mask = familyMask (fieldF r.value) ∧ r.value &&& r.mask = r.value ∧
    (decode r.value).mnemonic = some r.mnemonic := by
  decide

/-- Settles O3: an instruction's word has the fixed bits of its row by `rowBits`; a word with the fixed bits of a row decodes
to the mnemonic that the row's value, the word with all its fields 0, decodes to. -/
theorem wordDecodesToItsOpcodeRow : Obligations.WordDecodesToItsOpcodeRow := by
  intro w m
  constructor
  · rintro ⟨i, hi, rfl⟩
    obtain ⟨hwf, rfl⟩ := encode_of_decode hi
    exact rowBits i hwf
  · rintro ⟨r, hr, rfl, h⟩
    obtain ⟨hmask, hvalue, hm⟩ := opcodeRows_mask_value r hr
    have h : w &&& r.mask = r.value := eq_of_beq h
    rw [← Decoded.mnemonic_eq_some_iff, ← hm]
    exact decode_mnemonic_congr (by rw [← hmask, h, hvalue])

/-! ## Words that are no instruction (30_encoding.md R88, R89) -/

theorem decode8_ne_ambiguous (w : Word) : decode8 w ≠ .ambiguous := by
  unfold decode8
  split <;> exact nofun

theorem decodeF_ne_ambiguous (w : Word) : decodeF w ≠ .ambiguous := by
  unfold decodeF
  split <;> exact nofun

theorem decode0_eq_unknown_iff {w : Word} : decode0 w = .unknown ↔ fieldN w ≠ 0x0 ∧ fieldN w ≠ 0xE := by
  unfold decode0
  split
  case isTrue hw => subst hw; decide
  split
  case isTrue hw => subst hw; decide
  split
  · exact iff_of_false nofun (by omega)
  · exact iff_of_true rfl (by omega)

theorem decode0_eq_ambiguous_iff {w : Word} :
    decode0 w = .ambiguous ↔ (fieldN w = 0x0 ∨ fieldN w = 0xE) ∧ w ≠ 0x00E0 ∧ w ≠ 0x00EE := by
  unfold decode0
  split
  case isTrue hw => simp [hw]
  split
  case isTrue hw => simp [hw]
  split <;> simp_all

theorem decode8_eq_unknown_iff {w : Word} :
    decode8 w = .unknown ↔ fieldN w ∈ [0x8, 0x9, 0xA, 0xB, 0xC, 0xD, 0xF] := by
  have hlt := fieldN_lt w
  unfold decode8
  split
  case h_10 =>
    refine iff_of_true rfl ?_
    simp only [List.mem_cons, List.not_mem_nil, or_false]
    grind
  all_goals simp [*]

theorem decodeE_eq_unknown_iff {w : Word} : decodeE w = .unknown ↔ fieldN w ≠ 0xE ∧ fieldN w ≠ 0x1 := by
  have hN := fieldN_eq_fieldNN_mod w
  unfold decodeE
  split
  case isTrue hNN => simp [hN, hNN]
  split
  case isTrue hNN => simp [hN, hNN]
  split
  · exact iff_of_false nofun (by omega)
  · exact iff_of_true rfl (by omega)

theorem decodeE_eq_ambiguous_iff {w : Word} :
    decodeE w = .ambiguous ↔
      (fieldN w = 0xE ∨ fieldN w = 0x1) ∧ (fieldNN w).toNat ≠ 0x9E ∧ (fieldNN w).toNat ≠ 0xA1 := by
  unfold decodeE
  split
  case isTrue hNN => simp [hNN]
  split
  case isTrue hNN => simp [hNN]
  split
  · simp_all [← BitVec.toNat_inj]
  · simp_all

theorem decodeF_eq_unknown_iff {w : Word} :
    decodeF w = .unknown ↔ (fieldNN w).toNat ∉ [0x07, 0x0A, 0x15, 0x18, 0x1E, 0x29, 0x33, 0x55, 0x65] := by
  unfold decodeF
  split
  case h_10 => exact iff_of_true rfl (by simp_all)
  all_goals simp [*]

/-- An unknown word comes from one of the four families that sub-dispatch. -/
theorem decode_eq_unknown_iff {w : Word} :
    decode w = .unknown ↔
      (fieldF w = 0x0 ∧ decode0 w = .unknown) ∨ (fieldF w = 0x8 ∧ decode8 w = .unknown) ∨
        (fieldF w = 0xE ∧ decodeE w = .unknown) ∨ (fieldF w = 0xF ∧ decodeF w = .unknown) := by
  have hlt := fieldF_lt w
  unfold decode
  split
  case h_16 =>
    have hF : fieldF w = 0xF := by grind
    simp [hF]
  case h_6 hF | h_10 hF => split <;> simp [hF]
  all_goals simp_all

/-- An ambiguous word comes from family 0 or E, or from 5 or 9 with a bottom nibble that is not 0. -/
theorem decode_eq_ambiguous_iff {w : Word} :
    decode w = .ambiguous ↔
      (fieldF w = 0x0 ∧ decode0 w = .ambiguous) ∨ ((fieldF w = 0x5 ∨ fieldF w = 0x9) ∧ fieldN w ≠ 0) ∨
        (fieldF w = 0xE ∧ decodeE w = .ambiguous) := by
  have hlt := fieldF_lt w
  unfold decode
  split
  case h_9 hF => simp [hF, decode8_ne_ambiguous]
  case h_16 =>
    have hF : fieldF w = 0xF := by grind
    simp [hF, decodeF_ne_ambiguous]
  all_goals simp_all

/-- Settles O4: each word by evaluation. -/
theorem writtenWordsDecode : Obligations.WrittenWordsDecode := by
  unfold Obligations.WrittenWordsDecode
  decide

end Sys2Proof

namespace Sys2Proof.Machine

/-! ## The step on a word that is no instruction -/

/-- The sentinel is an instruction, JP 0x260, so that no other kind of word is substituted (10_state.md R53). -/
theorem State.executedWord_of_not_instr {s : State} {w : Word} (h : ∀ i, decode w ≠ .instr i) : s.executedWord w = w :=
  State.executedWord_of_ne fun ⟨_, hw⟩ => h (.jp 0x260) (by rw [hw]; decide)

/-- The substitute is an instruction too, so that a word executed that is none was fetched. -/
theorem State.executedWord_eq_self {s : State} {w : Word} (h : ∀ i, decode (s.executedWord w) ≠ .instr i) :
    s.executedWord w = w := by
  refine State.executedWord_of_ne fun hs => h (.jp 0x2C0) ?_
  rw [s.executedWord_eq, if_pos hs]
  decide

/-- A step that fetches an unknown word halts with the word recorded (30_encoding.md R88). -/
theorem State.Fetches.step_of_unknown {s : State} {w : Word} (h : s.Fetches w) (hw : decode w = .unknown) :
    step s = .next (s.haltEntry .unknownInstruction w) := by
  have he : s.executedWord w = w := State.executedWord_of_not_instr fun i => by simp [hw]
  rw [step_running h.running, h.fetchDecode_eq, he, hw]
  rfl

/-- A step that fetches an ambiguous word is refused with the word (30_encoding.md R89). -/
theorem State.Fetches.step_of_ambiguous {s : State} {w : Word} (h : s.Fetches w) (hw : decode w = .ambiguous) :
    step s = .refused (.dispatchAmbiguous w) := by
  have he : s.executedWord w = w := State.executedWord_of_not_instr fun i => by simp [hw]
  rw [step_running h.running, h.fetchDecode_eq, he, hw]

/-- Settles O5: the words family by family, the step by `step_of_unknown`. -/
theorem unknownWordsHalt : Obligations.UnknownWordsHalt := by
  refine fun w => ⟨?_, fun hw s h => ⟨_, h.step_of_unknown hw, rfl⟩⟩
  rw [decode_eq_unknown_iff, decode0_eq_unknown_iff, decode8_eq_unknown_iff, decodeE_eq_unknown_iff,
    decodeF_eq_unknown_iff, fieldNN_toNat]
  rfl

/-- Settles O6: the words family by family, the step by `step_of_ambiguous`. -/
theorem ambiguousWordsAreRefused : Obligations.AmbiguousWordsAreRefused := by
  refine fun w => ⟨?_, fun hw s h => h.step_of_ambiguous hw⟩
  rw [decode_eq_ambiguous_iff, decode0_eq_ambiguous_iff, decodeE_eq_ambiguous_iff, fieldNN_toNat]
  rfl

/-! ## What a refused step fetched -/

/-- No instruction is refused: those that can stop raise a halt. -/
theorem exec_ne_refused (i : Instr) (s : State) (e : Refusal) : exec i s ≠ .refused e := by
  cases i with
  | ret => change execRet s ≠ _; unfold execRet; split <;> simp [raiseHalt_ne_refused]
  | call nnn => change execCall nnn s ≠ _; unfold execCall; split <;> simp [raiseHalt_ne_refused]
  | drw x y n =>
    change execDrw x y n s ≠ _
    unfold execDrw
    split
    · exact raiseHalt_ne_refused
    · split <;> exact nofun
  | ldB x => change execLdB x s ≠ _; unfold execLdB; split <;> simp [raiseHalt_ne_refused]
  | ldMemVx x => change execLdMemVx x s ≠ _; unfold execLdMemVx; split <;> simp [raiseHalt_ne_refused]
  | ldVxMem x => change execLdVxMem x s ≠ _; unfold execLdVxMem; split <;> simp [raiseHalt_ne_refused]
  | skp x => change execSkp x s ≠ _; unfold execSkp; split <;> simp [raiseHalt_ne_refused]
  | sknp x => change execSknp x s ≠ _; unfold execSknp; split <;> simp [raiseHalt_ne_refused]
  | ldVxK x => change execLdVxK x s ≠ _; unfold execLdVxK; split <;> exact nofun
  | cls | jp _ | jpV0 _ | seImm _ _ | sneImm _ _ | seReg _ _ | sneReg _ _ | ldImm _ _ | addImm _ _ | ldReg _ _ | orReg _ _
  | andReg _ _ | xorReg _ _ | addReg _ _ | sub _ _ | shr _ _ | subn _ _ | shl _ _ | rnd _ _ | ldVxDt _ | ldI _ | addI _
  | ldF _ | ldDtVx _ | ldStVx _ => exact nofun

theorem finishStep_refused_iff {r : Result} {e : Refusal} : finishStep r = .refused e ↔ r = .refused e := by
  cases r <;> simp [finishStep]

/-- The ambiguous word that the checks before Execute report is the one fetched: the substitute is not ambiguous. -/
theorem State.fetchDecode_ambiguous {s : State} {w : Word} (h : s.fetchDecode = .ambiguous w) :
    s.fetch = .ok w ∧ decode w = .ambiguous := by
  unfold State.fetchDecode at h
  split at h
  · cases h
  split at h
  · cases h
  case h_2 w' hf =>
    split at h
    case h_2 hd =>
      cases h
      have he : s.executedWord w' = w' := State.executedWord_eq_self fun i => by simp [hd]
      exact ⟨he.symm ▸ hf, hd⟩
    all_goals cases h

/-- A step is refused only by the checks before Execute, for an ambiguous word. -/
theorem step_refused {s : State} {e : Refusal} (h : step s = .refused e) :
    ∃ w, s.clearPulses.fetchDecode = .ambiguous w ∧ e = .dispatchAmbiguous w := by
  obtain ⟨-, -, -, hrun⟩ := stepMovesOnlyWhileRunning s
  rw [step_running (hrun e h)] at h
  split at h
  · exact absurd h raiseHalt_ne_refused
  · next w hd => cases h; exact ⟨w, hd, rfl⟩
  · next i t _ => exact absurd (finishStep_refused_iff.1 h) (exec_ne_refused i t e)

/-- Settles O16: by `step_refused` the checks before Execute met an ambiguous word, and `fetchDecode_ambiguous` says that it
was fetched. -/
theorem stepRefusesOnlyAmbiguousWords : Obligations.StepRefusesOnlyAmbiguousWords := by
  intro s e h
  obtain ⟨w, hd, rfl⟩ := step_refused h
  obtain ⟨hf, hw⟩ := State.fetchDecode_ambiguous hd
  exact ⟨w, hf, hw, rfl⟩

end Sys2Proof.Machine
end

section
/-! SUPPORT. Control flow (40_flow.md): what each instruction does, completed or stopped, from the equivalences of `exec`. -/

namespace Sys2Proof.Machine

/-! ## CALL and RET -/

/-- CALL on a full stack raises its halt with its own address (40_flow.md R102). -/
theorem exec_call_fault_of_full {s : State} {nnn : Word} (h : stackDepth ≤ s.stack.length) :
    exec (.call nnn) s = .fault (.stackOverflow s.pc) := by
  change execCall nnn s = _
  rw [execCall, (s.push_eq_none_iff s.pc).2 h]
  rfl

/-- RET on an empty stack raises its halt (40_flow.md R100). -/
theorem exec_ret_fault_of_empty {s : State} (h : s.stack = []) : exec .ret s = .fault .stackUnderflow := by
  change execRet s = _
  rw [execRet, s.pop_eq_none_iff.2 h]
  rfl

/-- Settles O33: below STACK_DEPTH the completion by `exec_call_next_iff` with PC by `exec_pc`, on a full stack the halt. -/
theorem callPushesItsOwnAddress : Obligations.CallPushesItsOwnAddress := by
  refine fun nnn s => ⟨fun hlen => ?_, exec_call_fault_of_full⟩
  have hnext := exec_call_next_iff (nnn := nnn).2 ⟨hlen, rfl⟩
  exact ⟨_, hnext, rfl, exec_pc hnext, rfl⟩

/-- Settles O35: the CALL left its own address on top of its stack, and RET takes it off again. -/
theorem retResumesAfterItsCall : Obligations.RetResumesAfterItsCall := by
  intro nnn s u r hcall hr
  obtain ⟨-, rfl⟩ := exec_call_next_iff.1 hcall
  exact ⟨_, exec_ret_next_iff.2 ⟨s.pc, s.stack, hr, rfl⟩, rfl, rfl⟩

/-- Settles O34: with a newest entry the completion by `exec_ret_next_iff`, on an empty stack the halt. -/
theorem retPopsTheNewestEntry : Obligations.RetPopsTheNewestEntry :=
  fun _ rest a => ⟨fun hs => ⟨_, exec_ret_next_iff.2 ⟨a, rest, hs, rfl⟩, rfl, rfl, rfl⟩, exec_ret_fault_of_empty⟩

/-! ## Jumps -/

/-- Settles O32: both complete with PC written by `jumpTo`; where they land is `exec_pc`, the unmasked sum for JP V0. -/
theorem jumpsReachTheirTargets : Obligations.JumpsReachTheirTargets := by
  intro nnn s
  have hjp : exec (.jp nnn) s = .next (s.jumpTo nnn) := rfl
  have hjpV0 : exec (.jpV0 nnn) s = .next (s.jumpTo (nnn + zext (s.reg 0))) := rfl
  refine ⟨⟨_, hjp, exec_pc hjp, rfl⟩, _, hjpV0, ?_, rfl⟩
  rw [exec_pc hjpV0]
  simp [Instr.pcAfter]

/-! ## Skips -/

/-- A skip under the test `c` completes, writes PC alone, and passes one instruction where `p` makes `c` hold and none where
`q` makes it fail (10_state.md R56). -/
theorem exec_skip {i : Instr} {s : State} {c : Bool} {p q : Prop} (h : exec i s = .next (s.skipIf c))
    (hp : p → c = true) (hq : q → c = false) :
    ∃ t, exec i s = .next t ∧ t = { s with pc := t.pc } ∧ (p → t.pc = s.pc + 2) ∧ (q → t.pc = s.pc) :=
  ⟨_, h, s.skipIf_eq c, fun hc => by simp [hp hc], fun hc => by simp [hq hc]⟩

/-- Settles O36: each is `exec_skip` with its own test on the two bytes. -/
theorem registerSkipsFollowTheirCondition : Obligations.RegisterSkipsFollowTheirCondition :=
  fun _ _ _ _ => ⟨exec_skip rfl beq_iff_eq.2 beq_eq_false_iff_ne.2, exec_skip rfl bne_iff_ne.2 bne_eq_false_iff_eq.2,
    exec_skip rfl beq_iff_eq.2 beq_eq_false_iff_ne.2, exec_skip rfl bne_iff_ne.2 bne_eq_false_iff_eq.2⟩

end Sys2Proof.Machine
end

section
/-! PROOFS. Loads and arithmetic (41_alu.md): what a write of one register and a flagged write leave, the flags as arithmetic,
and the statements about the instructions made of them. -/

namespace Sys2Proof.Machine

/-! ## One register written -/

/-- A register write leaves every register but its destination. -/
theorem State.keepsRegs_setReg (s : State) (x : RegIdx) (b : Byte) : KeepsRegs s (s.setReg x b) [x] :=
  fun r hr => (s.reg_setReg x r b).trans (if_neg (List.ne_of_not_mem_cons hr))

/-- A register write is read back from its destination. -/
theorem State.reg_setReg_self (s : State) (x : RegIdx) (b : Byte) : (s.setReg x b).reg x = b :=
  (s.reg_setReg x x b).trans (if_pos rfl)

/-- Settles O37: each instruction is a `setReg` of V[X], whose frame is the register file and no register of it but X; the
byte written is the sum or the bitwise combination of the two bytes read. -/
theorem loadsAndLogicWriteOnlyTheirRegister : Obligations.LoadsAndLogicWriteOnlyTheirRegister := by
  intro x y nn s
  refine ⟨⟨_, rfl, rfl, s.keepsRegs_setReg x _, s.reg_setReg_self x _⟩, ⟨_, rfl, rfl, s.keepsRegs_setReg x _, ?add⟩,
    ⟨_, rfl, rfl, s.keepsRegs_setReg x _, s.reg_setReg_self x _⟩, ⟨_, rfl, rfl, s.keepsRegs_setReg x _, fun k => ?or⟩,
    ⟨_, rfl, rfl, s.keepsRegs_setReg x _, fun k => ?and⟩, ⟨_, rfl, rfl, s.keepsRegs_setReg x _, fun k => ?xor⟩⟩
  case add => rw [s.reg_setReg_self, BitVec.toNat_add]
  case or => rw [s.reg_setReg_self, BitVec.getLsbD_or]
  case and => rw [s.reg_setReg_self, BitVec.getLsbD_and]
  case xor => rw [s.reg_setReg_self, BitVec.getLsbD_xor]

/-- A byte with no bit outside a mask is what the mask leaves of it. -/
theorem and_eq_self_of_and_not_eq_zero {b m : Byte} (h : b &&& ~~~m = 0) : b &&& m = b := by
  apply BitVec.eq_of_getLsbD_eq
  intro k hk
  have hbit : (b &&& ~~~m).getLsbD k = false := by rw [h]; exact BitVec.getLsbD_zero
  simpa [hk] using hbit

/-- Settles O42: RND is a `setReg` of the masked random byte, and a byte inside the mask is drawn by itself. -/
theorem randomByteIsMasked : Obligations.RandomByteIsMasked := by
  intro x nn s
  refine ⟨⟨_, rfl, rfl, s.keepsRegs_setReg x _, s.reg_setReg_self x _⟩, fun b hb => ?_⟩
  refine ⟨{ s.draws with randByte := b }, _, rfl, (State.reg_setReg_self _ x _).trans ?_⟩
  exact and_eq_self_of_and_not_eq_zero hb

/-! ## The flags as arithmetic -/

theorem flagByte_toNat (b : Bool) : (flagByte b).toNat = if b then 1 else 0 := by cases b <;> rfl

theorem carryOut_toNat (a b : Byte) : (carryOut a b).toNat = if 255 < a.toNat + b.toNat then 1 else 0 := by
  simp [carryOut, flagByte_toNat]

theorem notBorrow_toNat (a b : Byte) : (notBorrow a b).toNat = if a.toNat < b.toNat then 0 else 1 := by
  simp only [notBorrow, flagByte_toNat, decide_eq_true_eq, ← not_lt, ite_not]

/-- SHR's flag under `literal` is the low nibble (41_alu.md R131). -/
theorem shrFlag_literal_toNat (vx : Byte) : (shrFlag .literal vx).toNat = vx.toNat % 16 := by
  rw [shrFlag, BitVec.toNat_and]
  exact Nat.and_two_pow_sub_one_eq_mod vx.toNat 4

/-- SHR's flag under `historical` is the low bit (41_alu.md R131). -/
theorem shrFlag_historical_toNat (vx : Byte) : (shrFlag .historical vx).toNat = vx.toNat % 2 := by
  rw [shrFlag, BitVec.toNat_and]
  exact Nat.and_two_pow_sub_one_eq_mod vx.toNat 1

/-- SHL's flag is bit 7 alone: the mask of 41_alu.md R133 removes nothing of a byte shifted by 7. -/
theorem shlFlag_toNat (vx : Byte) : (shlFlag vx).toNat = vx.toNat / 128 := by
  have hmask : (vx.toNat / 128) &&& 15 = vx.toNat / 128 % 16 := Nat.and_two_pow_sub_one_eq_mod _ 4
  have hlt := vx.isLt
  rw [shlFlag, BitVec.toNat_and, BitVec.toNat_ushiftRight, Nat.shiftRight_eq_div_pow]
  refine hmask.trans (Nat.mod_eq_of_lt ?_)
  omega

/-- Subtraction of bytes mod 256, with the modulus on the left as the unbounded difference has it. -/
theorem byte_sub_toNat (a b : Byte) : (a - b).toNat = (256 + a.toNat - b.toNat) % 256 := by
  bv_omega

/-! ## A result written with its flag -/

/-- A flagged write leaves every register but its destination and VF, under either VF_CORNER. -/
theorem State.keepsRegs_writeFlagged (s : State) (x y : RegIdx) (r f : Byte) :
    KeepsRegs s (s.writeFlagged x y r f) [x, 15] := by
  intro k hk
  obtain ⟨hx, hF⟩ : k ≠ x ∧ k ≠ 15 := by simpa using hk
  exact State.reg_writeFlagged_of_ne r f hx hF

/-- Where 41_alu.md R121 determines the flagged write, an instruction that is one completes with the result in a destination
other than VF and the flag in VF. -/
theorem exec_writeFlagged {i : Instr} {s : State} {x y : RegIdx} {r f : Byte}
    (h : exec i s = .next (s.writeFlagged x y r f)) (hvf : s.cfg.vfCorner = .latched ∨ (x ≠ 15 ∧ y ≠ 15)) :
    ∃ t, exec i s = .next t ∧ t = { s with v := t.v } ∧ KeepsRegs s t [x, 15] ∧ (x ≠ 15 → t.reg x = r) ∧
      t.reg 15 = f := by
  have hread := State.reg_writeFlagged ((s.vfHavoc_eq_false_iff x y).2 hvf) r f
  exact ⟨_, h, s.writeFlagged_eq x y r f, s.keepsRegs_writeFlagged x y r f, fun hx => by simp [hread, hx],
    by simp [hread]⟩

/-- Settles O38: both are flagged writes, of the sum with its carry and of the difference with its NOT borrow. -/
theorem addAndSubSetVF : Obligations.AddAndSubSetVF := by
  intro x y s hvf
  constructor
  · obtain ⟨t, hnext, hv, hkeep, hx, hF⟩ := exec_writeFlagged (i := .addReg x y) rfl hvf
    exact ⟨t, hnext, hv, hkeep, fun hne => by rw [hx hne, BitVec.toNat_add], by rw [hF, carryOut_toNat]⟩
  · obtain ⟨t, hnext, hv, hkeep, hx, hF⟩ := exec_writeFlagged (i := .sub x y) rfl hvf
    exact ⟨t, hnext, hv, hkeep, fun hne => by rw [hx hne, byte_sub_toNat], by rw [hF, notBorrow_toNat]⟩

/-- Settles O39: both are flagged writes of VX shifted, with SHR's flag by its variant. -/
theorem shiftsSetVF : Obligations.ShiftsSetVF := by
  intro x y s hvf
  constructor
  · obtain ⟨t, hnext, hv, hkeep, hx, hF⟩ := exec_writeFlagged (i := .shr x y) rfl hvf
    exact ⟨t, hnext, hv, hkeep,
      fun hne => by rw [hx hne, BitVec.toNat_ushiftRight, Nat.shiftRight_eq_div_pow, pow_one],
      fun hlit => by rw [hF, hlit, shrFlag_literal_toNat], fun hhist => by rw [hF, hhist, shrFlag_historical_toNat]⟩
  · obtain ⟨t, hnext, hv, hkeep, hx, hF⟩ := exec_writeFlagged (i := .shl x y) rfl hvf
    exact ⟨t, hnext, hv, hkeep,
      fun hne => by rw [hx hne, BitVec.toNat_shiftLeft, Nat.shiftLeft_eq, pow_one, Nat.mul_comm],
      by rw [hF, shlFlag_toNat]⟩

/-- Settles O40: SUBN is a flagged write, its value chosen by the variant, its flag the NOT borrow of VY - VX under both. -/
theorem subnFollowsItsVariant : Obligations.SubnFollowsItsVariant := by
  intro x y s hvf
  obtain ⟨t, hnext, hv, hkeep, hx, hF⟩ := exec_writeFlagged (i := .subn x y) rfl hvf
  refine ⟨t, hnext, hv, hkeep, fun hne hlit => ?_, fun hne hhist => ?_, by rw [hF, notBorrow_toNat]⟩
  · rw [hx hne, hlit, subnValue, byte_sub_toNat]
  · rw [hx hne, hhist, subnValue, byte_sub_toNat]

/-! ## Under havoc -/

/-- Each of the five flag-writing instructions of 41_alu.md R122 completes with a flagged write. -/
theorem exists_exec_writeFlagged {i : Instr} {x y : RegIdx}
    (hi : i = .addReg x y ∨ i = .sub x y ∨ i = .shr x y ∨ i = .subn x y ∨ i = .shl x y) (s : State) :
    ∃ r f, exec i s = .next (s.writeFlagged x y r f) := by
  rcases hi with rfl | rfl | rfl | rfl | rfl <;> exact ⟨_, _, rfl⟩

/-- The state with other free bytes for its step's flagged write (41_alu.md R122). -/
def State.withHavocBytes (s : State) (a f : Byte) : State :=
  { s with draws := { s.draws with havocReg := a, havocFlag := f } }

/-- Under `havoc` with VF as an operand, a flagged write leaves the free bytes, whatever the result and its flag. -/
theorem State.reg_withHavocBytes_writeFlagged {s : State} {x y : RegIdx} (h : s.vfHavoc x y = true) (a b v f : Byte)
    (r : RegIdx) :
    ((s.withHavocBytes a b).writeFlagged x y v f).reg r = if r = 15 then b else if r = x then a else s.reg r :=
  State.reg_writeFlagged_havoc (s := s.withHavocBytes a b) h v f r

/-- Settles O41: the flagged write has the frame of R121, and under `havoc` it leaves the two free bytes of the step. -/
theorem havocLeavesResultAndFlagFree : Obligations.HavocLeavesResultAndFlagFree := by
  intro x y s i hhavoc hvf hi
  constructor
  · obtain ⟨r, f, hnext⟩ := exists_exec_writeFlagged hi s
    exact ⟨_, hnext, s.writeFlagged_eq x y r f, s.keepsRegs_writeFlagged x y r f⟩
  · intro a b
    obtain ⟨r, f, hnext⟩ := exists_exec_writeFlagged hi (s.withHavocBytes a b)
    have hread := State.reg_withHavocBytes_writeFlagged ((s.vfHavoc_eq_true_iff x y).2 ⟨hhavoc, hvf⟩) a b r f
    exact ⟨_, _, hnext, by simp [hread], fun hx => by simp [hread, hx]⟩

end Sys2Proof.Machine
end

section
/-! PROOFS. Index register and memory transfers (42_index_memory.md): where a block access leaves memory it raises its halt,
otherwise the bytes stored or loaded one by one, and the statements made of them. -/

namespace Sys2Proof.Machine

theorem bcdDigits_length (b : Byte) : (bcdDigits b).length = 3 := rfl

/-! ## Accesses out of range -/

/-- An access that leaves 0x000 to 0xFFF records `max(I, 0x1000)` (42_index_memory.md, preamble). -/
theorem rangeFault_of_gt {base : Word} {n : Nat} (hn : 0 < n) (h : 0x1000 < base.toNat + n) :
    rangeFault base n = some (BitVec.ofNat 16 (max base.toNat 0x1000)) :=
  if_pos ⟨hn, h⟩

/-- FX33 raises its halt where its third byte is out of range (42_index_memory.md R153). -/
theorem exec_ldB_fault {s : State} {x : RegIdx} (h : 0x1000 ≤ s.i.toNat + 2) :
    exec (.ldB x) s = .fault (.memoryBounds (BitVec.ofNat 16 (max s.i.toNat 0x1000))) := by
  have hrange := rangeFault_of_gt (base := s.i) (Nat.succ_pos 2) (Nat.lt_succ_of_le h)
  change execLdB x s = _
  rw [execLdB, State.storeRange, bcdDigits_length, hrange]
  rfl

/-- FX55 raises its halt where its last byte is out of range (42_index_memory.md R154). -/
theorem exec_ldMemVx_fault {s : State} {x : RegIdx} (h : 0x1000 ≤ s.i.toNat + x.val) :
    exec (.ldMemVx x) s = .fault (.memoryBounds (BitVec.ofNat 16 (max s.i.toNat 0x1000))) := by
  have hrange := rangeFault_of_gt (base := s.i) (Nat.succ_pos x.val) (Nat.lt_succ_of_le h)
  change execLdMemVx x s = _
  rw [execLdMemVx, State.storeRange, State.regsUpTo_length, hrange]
  rfl

/-- FX65 raises its halt where its last byte is out of range (42_index_memory.md R155). -/
theorem exec_ldVxMem_fault {s : State} {x : RegIdx} (h : 0x1000 ≤ s.i.toNat + x.val) :
    exec (.ldVxMem x) s = .fault (.memoryBounds (BitVec.ofNat 16 (max s.i.toNat 0x1000))) := by
  have hrange := rangeFault_of_gt (base := s.i) (Nat.succ_pos x.val) (Nat.lt_succ_of_le h)
  change execLdVxMem x s = _
  rw [execLdVxMem, State.loadRange, hrange]
  rfl

/-! ## The bytes transferred -/

/-- FX33 leaves the digits of VX at I, I + 1 and I + 2, the hundreds first (42_index_memory.md R153; log entry 14). -/
theorem exec_ldB_peek {s t : State} {x : RegIdx} (h : exec (.ldB x) s = .next t) :
    (t.peek s.i.toNat).toNat = (s.reg x).toNat / 100 ∧ (t.peek (s.i.toNat + 1)).toNat = (s.reg x).toNat / 10 % 10 ∧
      (t.peek (s.i.toNat + 2)).toNat = (s.reg x).toNat % 10 := by
  obtain ⟨-, rfl⟩ := exec_ldB_next_iff.1 h
  have hdigit (k : Nat) (hk : k < 3) := s.peek_pokes_inside s.i.toNat (bcdDigits (s.reg x)) k hk
  have hlt := (s.reg x).isLt
  refine ⟨?_, ?_, ?_⟩
  · exact (congrArg BitVec.toNat (hdigit 0 (by decide))).trans (Nat.mod_eq_of_lt (by omega))
  · exact (congrArg BitVec.toNat (hdigit 1 (by decide))).trans (Nat.mod_eq_of_lt (by omega))
  · exact (congrArg BitVec.toNat (hdigit 2 (by decide))).trans (Nat.mod_eq_of_lt (by omega))

/-- FX65 leaves the byte at I + k in V[k], for every k up to X (42_index_memory.md R155). -/
theorem exec_ldVxMem_reg {s t : State} {x k : RegIdx} (h : exec (.ldVxMem x) s = .next t) (hk : k ≤ x) :
    t.reg k = s.peek (s.i.toNat + k.val) := by
  obtain ⟨-, rfl⟩ := exec_ldVxMem_next_iff.1 h
  have hlen : k.val < (s.peeks s.i.toNat (x.val + 1)).length := by
    rw [State.peeks_length]; exact Nat.lt_succ_of_le hk
  have hset := setRegsFrom_getElem s.v 0 (s.peeks s.i.toNat (x.val + 1)) k.val k.isLt
  rw [dif_pos ⟨k.val.zero_le, by rwa [Nat.zero_add]⟩] at hset
  exact hset.trans (s.peeks_getElem _ _ _ hlen)

/-- I advances by X + 1, mod 2^16 (42_index_memory.md R154, R155). -/
theorem State.advanceI_i_toNat (s : State) (x : RegIdx) :
    (s.advanceI x).i.toNat = (s.i.toNat + x.val + 1) % 0x10000 := by
  rw [State.advanceI_i, BitVec.toNat_add, BitVec.toNat_ofNat, Nat.add_mod_mod, Nat.add_assoc]

/-! ## The statements -/

/-- Settles O44: in range the completion by `exec_ldB_next_iff` with its digits by `exec_ldB_peek`, out of range the halt. -/
theorem bcdStoresThreeDigits : Obligations.BcdStoresThreeDigits := by
  refine fun x s => ⟨fun hi => ?_, exec_ldB_fault⟩
  have hnext := exec_ldB_next_iff (x := x).2 ⟨Nat.succ_le_of_lt hi, rfl⟩
  obtain ⟨hundreds, tens, ones⟩ := exec_ldB_peek hnext
  exact ⟨_, hnext, s.pokes_eq _ _, hundreds, tens, ones, memoryIsWrittenOnlyByStores _ s _ hnext⟩

/-- Settles O45: in range the completion by `exec_ldMemVx_next_iff` with its bytes by `exec_ldMemVx_peek`, out of range the
halt. -/
theorem registersAreStoredFromI : Obligations.RegistersAreStoredFromI := by
  refine fun x s => ⟨fun hi => ?_, exec_ldMemVx_fault⟩
  have hnext := exec_ldMemVx_next_iff (x := x).2 ⟨hi, rfl⟩
  refine ⟨_, hnext, ?frame, ?advance, fun k => exec_ldMemVx_peek hnext, memoryIsWrittenOnlyByStores _ s _ hnext⟩
  case frame => rw [s.pokes_eq]; rfl
  case advance => rw [State.advanceI_i_toNat, State.pokes_i]

/-- Settles O46: in range the completion by `exec_ldVxMem_next_iff` with its registers by `exec_ldVxMem_reg` and the ones
above X by O27, out of range the halt. -/
theorem registersAreLoadedFromI : Obligations.RegistersAreLoadedFromI := by
  refine fun x s => ⟨fun hi => ?_, exec_ldVxMem_fault⟩
  have hnext := exec_ldVxMem_next_iff (x := x).2 ⟨hi, rfl⟩
  exact ⟨_, hnext, rfl, State.advanceI_i_toNat _ x, fun k => exec_ldVxMem_reg hnext,
    fun k hk => registersAreWrittenOnlyAsNamed _ s _ hnext k (not_le.2 hk), fun _ => rfl⟩

/-- Settles O47: FX65 reads V[k] from I + k, where FX55 left it. -/
theorem loadAfterStoreRestoresRegisters : Obligations.LoadAfterStoreRestoresRegisters := by
  intro x s u r hstore hmem hcfg hi
  obtain ⟨hrange, -⟩ := exec_ldMemVx_next_iff.1 hstore
  have hload := exec_ldVxMem_next_iff (s := r).2 ⟨hi.symm ▸ hrange, rfl⟩
  refine ⟨_, hload, fun k hk => ?_⟩
  calc _ = r.peek (r.i.toNat + k.val) := exec_ldVxMem_reg hload hk
    _ = u.peek (s.i.toNat + k.val) := by rw [hi, State.peek_congr hmem hcfg]
    _ = s.reg k := exec_ldMemVx_peek hstore hk

/-- Settles O43: each writes I alone; a byte zero-extended is itself, and five times a byte fits 16 bits. -/
theorem indexInstructionsWriteI : Obligations.IndexInstructionsWriteI := by
  intro nnn x s
  have hlt := (s.reg x).isLt
  refine ⟨⟨_, rfl, rfl, rfl⟩, ⟨_, rfl, ?addI, rfl⟩, ⟨_, rfl, ?ldF, rfl⟩⟩
  case addI => rw [BitVec.toNat_add, zext, BitVec.toNat_ofNat, Nat.add_mod_mod]
  case ldF => exact Nat.mod_eq_of_lt (by omega)

end Sys2Proof.Machine
end

section
/-! PROOFS. Display (43_display.md): what a DXYN leaves under `latched` and under `havoc`, the bytes of RENDER, the steps that
request a draw, and the statements made of them. -/

namespace Sys2Proof.Machine

/-! ## DXYN, under either VF_CORNER -/

/-- Where VF_CORNER leaves nothing open, a DXYN in range draws its sprite (43_display.md R172). -/
theorem exec_drw_latched {s : State} {x y : RegIdx} {n : Nat} (hvf : s.vfHavoc x y = false)
    (hr : n = 0 ∨ s.i.toNat + n ≤ 0x1000) :
    exec (.drw x y n) s =
      .next (s.drawn (s.drawSprite x y (s.peeks s.i.toNat n)).1 (s.drawSprite x y (s.peeks s.i.toNat n)).2) :=
  exec_drw_next_iff.2 ⟨hr, by rw [hvf]; rfl⟩

/-- Under `havoc` with VF as a coordinate, a DXYN in range leaves the free active rows and the free collision bit
(43_display.md R173). -/
theorem exec_drw_havoc {s : State} {x y : RegIdx} {n : Nat} (hvf : s.vfHavoc x y = true)
    (hr : n = 0 ∨ s.i.toNat + n ≤ 0x1000) :
    exec (.drw x y n) s = .next (s.drawn (havocRows (s.cells / 64) s.draws.havocCells s.fb) s.draws.havocHit) :=
  exec_drw_next_iff.2 ⟨hr, by rw [hvf]; rfl⟩

/-- A DXYN raises its halt where its last row is out of range (43_display.md R172, R173). -/
theorem exec_drw_fault {s : State} {x y : RegIdx} {n : Nat} (hn : 0 < n) (h : 0x1000 ≤ s.i.toNat + n - 1) :
    exec (.drw x y n) s = .fault (.memoryBounds (BitVec.ofNat 16 (max s.i.toNat 0x1000))) := by
  have hrange := rangeFault_of_gt (base := s.i) hn (by omega)
  change execDrw x y n s = _
  rw [execDrw, State.loadRange, hrange]
  rfl

theorem flagByte_eq_zero_or_one (b : Bool) : flagByte b = 0 ∨ flagByte b = 1 := by cases b <;> simp [flagByte]

theorem flagByte_eq_one_iff {b : Bool} : flagByte b = 1 ↔ b = true := by cases b <;> simp [flagByte]

theorem State.reg_drawn_flag (s : State) (fb : FrameBuf) (hit : Bool) : (s.drawn fb hit).reg 15 = flagByte hit :=
  (s.reg_drawn fb hit 15).trans (if_pos rfl)

theorem State.keepsRegs_drawn (s : State) (fb : FrameBuf) (hit : Bool) : KeepsRegs s (s.drawn fb hit) [15] :=
  s.keepsRegs_setReg 15 (flagByte hit)

/-- VF is 0 or 1 after a draw, whatever was drawn (43_display.md R172, R173). -/
theorem State.reg_drawn_flag_zero_or_one (s : State) (fb : FrameBuf) (hit : Bool) :
    (s.drawn fb hit).reg 15 = 0 ∨ (s.drawn fb hit).reg 15 = 1 := by
  rw [s.reg_drawn_flag]
  exact flagByte_eq_zero_or_one hit

/-! ## The cells of the sprite -/

/-- The cells that the model toggles are those that the sprite in memory lights, by the index formula of 43_display.md R172. -/
theorem State.mem_spriteCells_iff (s : State) (x y : RegIdx) (n c : Nat) :
    c ∈ spriteCells s.cells (s.reg x).toNat (s.reg y).toNat (s.peeks s.i.toNat n) ↔ s.SpriteLights x y n c := by
  rw [mem_spriteCells]
  refine exists_congr fun row => exists_congr fun col => ?_
  constructor
  · rintro ⟨hrow, hcol, hbit, hc⟩
    rw [s.peeks_getElem] at hbit
    exact ⟨s.peeks_length _ n ▸ hrow, hcol, hbit, hc⟩
  · rintro ⟨hrow, hcol, hbit, hc⟩
    refine ⟨(s.peeks_length _ n).symm ▸ hrow, hcol, ?_, hc⟩
    rwa [s.peeks_getElem]

/-- Where VF_CORNER leaves nothing open, a DXYN toggles a cell exactly when its sprite lights it: no cell is toggled
twice. -/
theorem exec_drw_cell_ne_iff {s t : State} {x y : RegIdx} {n : Nat} (hn : n < 16) (hvf : s.vfHavoc x y = false)
    (h : exec (.drw x y n) s = .next t) (c : Nat) :
    FrameBuf.cell t.fb c ≠ FrameBuf.cell s.fb c ↔ s.SpriteLights x y n c := by
  have hlen : (s.peeks s.i.toNat n).length ≤ 16 := by rw [s.peeks_length]; exact hn.le
  obtain ⟨hr, -⟩ := exec_drw_next_iff.1 h
  cases h.symm.trans (exec_drw_latched hvf hr)
  rw [State.drawn_fb, s.drawSprite_cell x y hlen, ← s.mem_spriteCells_iff]
  cases FrameBuf.cell s.fb c <;> simp

/-- It reports a collision exactly when its sprite lights a cell that was set. -/
theorem exec_drw_flag_iff {s t : State} {x y : RegIdx} {n : Nat} (hn : n < 16) (hvf : s.vfHavoc x y = false)
    (h : exec (.drw x y n) s = .next t) :
    t.reg 15 = 1 ↔ ∃ c, s.SpriteLights x y n c ∧ FrameBuf.cell s.fb c = true := by
  have hlen : (s.peeks s.i.toNat n).length ≤ 16 := by rw [s.peeks_length]; exact hn.le
  obtain ⟨hr, -⟩ := exec_drw_next_iff.1 h
  cases h.symm.trans (exec_drw_latched hvf hr)
  rw [s.reg_drawn_flag, flagByte_eq_one_iff, s.drawSprite_hit x y hlen, List.any_eq_true]
  simp only [s.mem_spriteCells_iff]

/-- A DXYN leaves what a sprite at other coordinates than VF lights: it writes no memory, no I, no mode and no register
but VF. -/
theorem exec_drw_spriteLights_iff {s t : State} {x y : RegIdx} {n : Nat} (h : exec (.drw x y n) s = .next t)
    (hx : x ≠ 15) (hy : y ≠ 15) (c : Nat) : t.SpriteLights x y n c ↔ s.SpriteLights x y n c := by
  have hregx : t.reg x = s.reg x := registersAreWrittenOnlyAsNamed _ s t h x hx
  have hregy : t.reg y = s.reg y := registersAreWrittenOnlyAsNamed _ s t h y hy
  obtain ⟨-, rfl⟩ := exec_drw_next_iff.1 h
  unfold State.SpriteLights
  rw [hregx, hregy]
  split <;> rfl

/-! ## The statements about CLS and DXYN -/

/-- Settles O48: CLS stores the blank framebuffer and the draw request. -/
theorem clsClearsEveryCell : Obligations.ClsClearsEveryCell :=
  fun _ => ⟨_, rfl, FrameBuf.cell_blank, rfl, rfl⟩

/-- Settles O49: in range the sprite drawn, cell by cell and with its collision bit; out of range the halt. -/
theorem drawTogglesTheSpriteCells : Obligations.DrawTogglesTheSpriteCells := by
  refine fun x y n s hn => ⟨fun hr hlatched => ?_, exec_drw_fault⟩
  have hvf := (s.vfHavoc_eq_false_iff x y).2 hlatched
  have hnext := exec_drw_latched hvf (n := n) (by omega)
  exact ⟨_, hnext, rfl, s.keepsRegs_drawn _ _, fun _ => rfl, exec_drw_cell_ne_iff hn hvf hnext,
    s.reg_drawn_flag_zero_or_one _ _, exec_drw_flag_iff hn hvf hnext⟩

/-- Settles O50: the frame is the draw's, the inactive cells are kept by every DXYN, and the active ones and the collision bit
are the free values of the step. -/
theorem havocDrawLeavesCellsFree : Obligations.HavocDrawLeavesCellsFree := by
  intro x y n s hhavoc hxy hr
  have hvf := (s.vfHavoc_eq_true_iff x y).2 ⟨hhavoc, hxy⟩
  have hr : n = 0 ∨ s.i.toNat + n ≤ 0x1000 := by omega
  constructor
  · have hnext := exec_drw_havoc hvf hr
    refine ⟨_, hnext, rfl, s.keepsRegs_drawn _ _, fun _ => rfl, s.reg_drawn_flag_zero_or_one _ _, fun hlow c hc => ?_⟩
    have hcells : s.cells = 2048 := if_neg (ne_true_of_eq_false hlow)
    exact exec_drw_cell_of_inactive hnext (hcells ▸ hc)
  · intro f hit
    refine ⟨{ s.draws with havocCells := f, havocHit := hit }, _, exec_drw_havoc hvf hr, fun c hc => ?_,
      State.reg_drawn_flag _ _ hit⟩
    have hrow : c / 64 < s.cells / 64 := by
      change c < s.cells at hc
      obtain ⟨h, -⟩ | ⟨h, -⟩ := s.cells_cases <;> omega
    exact (havocRows_cell _ f s.fb c).trans (if_pos hrow)

/-- Settles O51: both draws toggle the same cells, so that each cell is as it was; a lit cell that the first draw found
clear is set when the second draw meets it. -/
theorem drawingTwiceRestoresTheFramebuffer : Obligations.DrawingTwiceRestoresTheFramebuffer := by
  intro x y n s u t hn hx hy hu ht
  have hvfs := (s.vfHavoc_eq_false_iff x y).2 (.inr ⟨hx, hy⟩)
  have hvfu := (u.vfHavoc_eq_false_iff x y).2 (.inr ⟨hx, hy⟩)
  have hlights := exec_drw_spriteLights_iff hu hx hy
  have hfirst := exec_drw_cell_ne_iff hn hvfs hu
  have hsecond (c : Nat) := (exec_drw_cell_ne_iff hn hvfu ht c).trans (hlights c)
  refine ⟨FrameBuf.ext fun c _ => ?_, fun h0 ⟨c, hc⟩ => ?_⟩
  · by_cases hc : s.SpriteLights x y n c
    · rw [Bool.eq_not_of_ne ((hsecond c).2 hc), Bool.eq_not_of_ne ((hfirst c).2 hc), Bool.not_not]
    · rw [not_ne_iff.1 (mt (hsecond c).1 hc), not_ne_iff.1 (mt (hfirst c).1 hc)]
  · have hclear : FrameBuf.cell s.fb c = false := eq_false_of_ne_true fun hset => by
      have h1 : u.reg 15 = 1 := (exec_drw_flag_iff hn hvfs hu).2 ⟨c, hc, hset⟩
      exact absurd (h0.symm.trans h1) (by decide)
    have hset : FrameBuf.cell u.fb c = true := eq_true_of_ne_false (hclear ▸ (hfirst c).2 hc)
    exact (exec_drw_flag_iff hn hvfu ht).2 ⟨c, (hlights c).2 hc, hset⟩

/-! ## RENDER -/

theorem length_flatMap_range {α : Type} {f : Nat → List α} {k : Nat} (hf : ∀ c, (f c).length = k) (m : Nat) :
    ((List.range m).flatMap f).length = m * k := by
  simp [List.length_flatMap, hf]

/-- Blocks of one length, one for each number below `m`: entry `p` of block `c` stands at `c * k + p`. -/
theorem getElem?_flatMap_range {α : Type} {f : Nat → List α} {k : Nat} (hf : ∀ c, (f c).length = k) {m c p : Nat}
    (hc : c < m) (hp : p < k) : ((List.range m).flatMap f)[c * k + p]? = (f c)[p]? := by
  induction m with
  | zero => exact absurd hc c.not_lt_zero
  | succ m ih =>
    rw [List.range_succ, List.flatMap_append, List.flatMap_singleton]
    obtain hlt | rfl := Nat.lt_succ_iff_lt_or_eq.1 hc
    · have hin : c * k + p < ((List.range m).flatMap f).length := by
        rw [length_flatMap_range hf]
        calc c * k + p < c * k + k := Nat.add_lt_add_left hp _
          _ = (c + 1) * k := (Nat.succ_mul c k).symm
          _ ≤ m * k := Nat.mul_le_mul_right k hlt
      rw [List.getElem?_append_left hin, ih hlt]
    · rw [← length_flatMap_range hf c, List.getElem?_append_right (Nat.le_add_right _ _), Nat.add_sub_cancel_left]

theorem pixelBytes_length (b : Bool) : (pixelBytes b).length = 3 := List.length_replicate

theorem pixelBytes_getElem? (b : Bool) {p : Nat} (hp : p < 3) : (pixelBytes b)[p]? = some (if b then 255 else 0) :=
  List.getElem?_replicate_of_lt hp

/-- Settles O52: the bytes are blocks of three, one for each active cell. -/
theorem renderExpandsActiveCells : Obligations.RenderExpandsActiveCells := by
  intro s
  have hlen (c : Nat) := pixelBytes_length (FrameBuf.cell s.fb c)
  refine ⟨rfl, rfl, ?_, fun c p hc hp => ?_⟩
  · refine (length_flatMap_range hlen s.cells).trans ?_
    unfold State.cells
    split <;> rfl
  · exact (getElem?_flatMap_range hlen hc hp).trans (pixelBytes_getElem? _ hp)

/-! ## draw_request -/

/-- An instruction that completes has set draw_request if it is 00E0 or DXYN, and leaves it otherwise (43_display.md R175). -/
theorem exec_drawRequest_iff {i : Instr} {s t : State} (h : exec i s = .next t) :
    t.drawRequest = true ↔ s.drawRequest = true ∨ i = .cls ∨ ∃ x y n, i = .drw x y n := by
  cases i with
  | cls | jp _ | jpV0 _ | seImm _ _ | sneImm _ _ | seReg _ _ | sneReg _ _ => cases h; simp
  | ldImm _ _ | addImm _ _ | ldReg _ _ | orReg _ _ | andReg _ _ | xorReg _ _ | rnd _ _ | ldVxDt _
  | addReg _ _ | sub _ _ | shr _ _ | subn _ _ | shl _ _ => cases h; simp
  | ldI _ | addI _ | ldF _ | ldDtVx _ | ldStVx _ => cases h; simp
  | drw _ _ _ => obtain ⟨-, rfl⟩ := exec_drw_next_iff.1 h; split <;> simp
  | skp _ => obtain ⟨-, rfl⟩ := exec_skp_next_iff.1 h; simp
  | sknp _ => obtain ⟨-, rfl⟩ := exec_sknp_next_iff.1 h; simp
  | ret => obtain ⟨_, _, -, rfl⟩ := exec_ret_next_iff.1 h; simp
  | call _ => obtain ⟨-, rfl⟩ := exec_call_next_iff.1 h; simp
  | ldVxK _ => obtain ⟨_, -, rfl⟩ | ⟨-, rfl⟩ := exec_ldVxK_next_iff.1 h <;> simp
  | ldB _ => obtain ⟨-, rfl⟩ := exec_ldB_next_iff.1 h; simp
  | ldMemVx _ => obtain ⟨-, rfl⟩ := exec_ldMemVx_next_iff.1 h; simp
  | ldVxMem _ => obtain ⟨-, rfl⟩ := exec_ldVxMem_next_iff.1 h; simp

/-- A fetch that answers a word has read its two bytes, both inside memory (20_memory.md R65). -/
theorem State.fetch_ok_iff {s : State} {w : Word} :
    s.fetch = .ok w ↔ s.pc.toNat + 1 < 0x1000 ∧ s.peek s.pc.toNat = hiByte w ∧ s.peek (s.pc.toNat + 1) = loByte w := by
  by_cases h : s.pc.toNat + 1 < 0x1000
  · rw [State.fetch_of_lt h, Except.ok.injEq]
    constructor
    · rintro rfl
      simp [h]
    · rintro ⟨-, hhi, hlo⟩
      rw [hhi, hlo, bigEndian_bytes]
  · refine iff_of_false (fun hf => ?_) fun hw => h hw.1
    unfold State.fetch at hf
    rw [State.memRead_of_ge (a := s.pc.toNat + 1) (by omega)] at hf
    split at hf <;> cases hf

/-- A running step whose checks before Execute answer an instruction runs it, from the step's start (10_state.md R51). -/
theorem State.runs_of_fetchDecode {s u : State} {w : Word} {i : Instr} (hrun : s.runState = .running)
    (h : s.clearPulses.fetchDecode = .run w i u) : ∃ w', s.Runs w' i ∧ u = s.start w' := by
  obtain ⟨hend, w', hf, rfl, hd, rfl⟩ := State.fetchDecode_run_iff.1 h
  obtain ⟨hin, hhi, hlo⟩ := State.fetch_ok_iff.1 hf
  have hfetches : s.Fetches w' := ⟨hrun, (State.atEnd_eq_false_iff _).1 hend, hin, hhi, hlo⟩
  refine ⟨w', ⟨hfetches, ?_⟩, s.sniff_eq_start w'⟩
  rw [← s.executedWord_eq]
  exact hd

/-- A halt records none of the old pulse (60_exceptions.md R215; 10_state.md R21). -/
theorem raiseHalt_drawRequest (s : State) (b : Bool) (r : HaltReason) (a : Word) :
    raiseHalt { s with drawRequest := b } r a = raiseHalt s r a := by
  cases r <;> rfl

/-- No step reads the pulse of the step before: a step clears it, and a halt does. -/
theorem step_drawRequest (s : State) (b : Bool) : step { s with drawRequest := b } = step s := by
  unfold step
  simp only [raiseHalt_drawRequest]
  rfl

/-- Settles O13: a step starts with the pulse cleared, so that it is set after it exactly when the instruction set it; a halt
leaves it cleared, and a step that clears it first has not read it. -/
theorem drawRequestMarksDrawingSteps : Obligations.DrawRequestMarksDrawingSteps := by
  refine ⟨fun s t ht => ⟨fun hdraw => ?_, ?_⟩, step_drawRequest⟩
  · obtain ⟨hrun, ⟨w, i, u, v, hd, hv, rfl⟩ | ⟨r, a, -, -, rfl⟩⟩ := step_next ht
    · obtain ⟨w', hruns, rfl⟩ := State.runs_of_fetchDecode hrun hd
      exact ⟨w', i, hruns, ((exec_drawRequest_iff hv).1 hdraw).resolve_left Bool.false_ne_true⟩
    · cases hdraw
  · rintro ⟨w, i, hruns, hi⟩
    obtain ⟨u, hu, rfl⟩ := hruns.step_next_iff.1 ht
    exact (exec_drawRequest_iff hu).2 (.inr hi)

end Sys2Proof.Machine
end

section
/-! PROOFS. Keys and timers (44_timers_keys.md): the key skips inside and outside the sixteen keys, the key that FX0A stores,
and the timer transfers. -/

namespace Sys2Proof.Machine

/-! ## The key skips -/

/-- EX9E raises its halt where VX is above 15 (44_timers_keys.md R190). -/
theorem exec_skp_fault {s : State} {x : RegIdx} (h : 15 < (s.reg x).toNat) :
    exec (.skp x) s = .fault (.keyIndexRange (BitVec.ofNat 16 (s.reg x).toNat)) := by
  change execSkp x s = _
  rw [execSkp, State.keyState_eq_none_iff.2 h]
  rfl

/-- EXA1 raises its halt where VX is above 15 (44_timers_keys.md R191). -/
theorem exec_sknp_fault {s : State} {x : RegIdx} (h : 15 < (s.reg x).toNat) :
    exec (.sknp x) s = .fault (.keyIndexRange (BitVec.ofNat 16 (s.reg x).toNat)) := by
  change execSknp x s = _
  rw [execSknp, State.keyState_eq_none_iff.2 h]
  rfl

/-- A skip under a negated condition passes an instruction where the condition fails. -/
theorem State.skipIf_not_pc (s : State) (c : Bool) : (s.skipIf (!c)).pc = if c then s.pc else s.pc + 2 := by
  cases c <;> rfl

/-- Settles O54: on a key index both complete as a skip under the level of the key, above 15 both raise the halt. -/
theorem keySkipsFollowTheSample : Obligations.KeySkipsFollowTheSample := by
  refine fun x s => ⟨fun hle => ⟨?skp, ?sknp⟩, fun hgt => ⟨exec_skp_fault hgt, exec_sknp_fault hgt⟩⟩
  case skp => exact ⟨_, exec_skp_next_iff.2 ⟨hle, rfl⟩, s.skipIf_eq _, s.skipIf_pc _⟩
  case sknp => exact ⟨_, exec_sknp_next_iff.2 ⟨hle, rfl⟩, s.skipIf_eq _, s.skipIf_not_pc _⟩

/-! ## The key wait -/

/-- The number of a key, stored in a register, is read back whole: it fits a byte. -/
theorem State.reg_setReg_key_toNat (s : State) (x k : RegIdx) :
    ((s.setReg x (BitVec.ofNat 8 k.val)).reg x).toNat = k.val := by
  rw [s.reg_setReg_self, BitVec.toNat_ofNat]
  omega

/-- Settles O55: with no key down nothing is picked and PC goes back; with a key down some key is picked, only a key that is
down is ever picked, and by `exists_pickKey` any of them for some free value. -/
theorem keyWaitRearmsOrStoresAKey : Obligations.KeyWaitRearmsOrStoresAKey := by
  refine fun x s => ⟨fun hup => ?_, fun j hj => ⟨?_, ?_⟩⟩
  · have hnone := (pickKey_eq_none_iff _ s.draws.keyPick).2 hup
    exact ⟨_, exec_ldVxK_next_iff.2 (.inr ⟨hnone, rfl⟩), BitVec.sub_add_cancel s.pc 2, rfl⟩
  · cases hk : pickKey s.draws.keyDown s.draws.keyPick with
    | none =>
      have hup := (pickKey_eq_none_iff _ _).1 hk j
      exact absurd hj (ne_true_of_eq_false hup)
    | some k =>
      exact ⟨_, exec_ldVxK_next_iff.2 (.inl ⟨k, hk, rfl⟩), rfl, s.keepsRegs_setReg x _, k, pickKey_down hk,
        s.reg_setReg_key_toNat x k⟩
  · obtain ⟨p, hp⟩ := exists_pickKey hj
    exact ⟨p, _, exec_ldVxK_next_iff.2 (.inl ⟨j, hp, rfl⟩), State.reg_setReg_key_toNat _ x j⟩

/-! ## The timer transfers -/

/-- Settles O56: FX07 is a `setReg` of DT, whose frame is the register file and no register of it but X; FX15 and FX18 write
their timer alone. -/
theorem timerTransfersWriteTheirTarget : Obligations.TimerTransfersWriteTheirTarget :=
  fun x s => ⟨⟨_, rfl, rfl, s.keepsRegs_setReg x _, s.reg_setReg_self x _⟩, ⟨_, rfl, rfl⟩, ⟨_, rfl, rfl⟩⟩

end Sys2Proof.Machine
end

section
/-! PROOFS. Halts, timers and the trace (60_exceptions.md): where an instruction raises a fatal halt, what a step that halts or
completes leaves, what leads out of Halted, and the record of the word executed. -/

namespace Sys2Proof.Machine

/-! ## Fatal halts of an instruction -/

/-- An instruction raises its fatal halt wherever 60_exceptions.md R210 says so, with the value recorded there. -/
theorem exec_fault_of_faultsIn {i : Instr} {s : State} {f : Fault} (h : i.FaultsIn s f) : exec i s = .fault f := by
  cases i with
  | ret => obtain ⟨hs, rfl⟩ := h; exact exec_ret_fault_of_empty hs
  | call _ => obtain ⟨hs, rfl⟩ := h; exact exec_call_fault_of_full hs
  | skp _ => obtain ⟨hk, rfl⟩ := h; exact exec_skp_fault hk
  | sknp _ => obtain ⟨hk, rfl⟩ := h; exact exec_sknp_fault hk
  | drw _ _ _ => obtain ⟨hn, hi, rfl⟩ := h; exact exec_drw_fault hn hi
  | ldB _ => obtain ⟨hi, rfl⟩ := h; exact exec_ldB_fault hi
  | ldMemVx _ => obtain ⟨hi, rfl⟩ := h; exact exec_ldMemVx_fault hi
  | ldVxMem _ => obtain ⟨hi, rfl⟩ := h; exact exec_ldVxMem_fault hi
  | cls | jp _ | jpV0 _ | seImm _ _ | sneImm _ _ | seReg _ _ | sneReg _ _ | ldImm _ _ | addImm _ _ | ldReg _ _ | orReg _ _
  | andReg _ _ | xorReg _ _ | addReg _ _ | sub _ _ | shr _ _ | subn _ _ | shl _ _ | rnd _ _ | ldVxDt _ | ldVxK _ | ldI _
  | addI _ | ldF _ | ldDtVx _ | ldStVx _ => exact h.elim

/-- An instruction faults exactly in the states of 60_exceptions.md R210: in any other it completes. -/
theorem exec_fault_iff {i : Instr} {s : State} {f : Fault} : exec i s = .fault f ↔ i.FaultsIn s f := by
  refine ⟨fun h => ?_, exec_fault_of_faultsIn⟩
  by_cases hf : ∃ g, i.FaultsIn s g
  · obtain ⟨g, hg⟩ := hf
    cases h.symm.trans (exec_fault_of_faultsIn hg)
    exact hg
  · obtain ⟨t, ht⟩ := exec_next_of_not_faultsIn (not_exists.1 hf)
    cases h.symm.trans ht

/-- Settles O18: `exec_fault_iff`, and no instruction is refused. -/
theorem instructionsFaultExactlyWhereTheyHalt : Obligations.InstructionsFaultExactlyWhereTheyHalt :=
  fun i s => ⟨fun _ => exec_fault_iff, exec_ne_refused i s⟩

/-! ## Steps that halt, steps that complete -/

theorem exec_beep {i : Instr} {s t : State} (h : exec i s = .next t) : t.beep = s.beep := by
  rw [exec_frame h]

/-- A step that answers a state no longer Running has halted cleanly: no instruction writes the run state. -/
theorem step_next_not_running {s t : State} (h : step s = .next t) (ht : t.runState ≠ .running) :
    ∃ r a, r.fatal = false ∧ t = s.haltEntry r a := by
  obtain ⟨hrun, ⟨w, i, u, v, hd, hv, rfl⟩ | ⟨r, a, -, hr, rfl⟩⟩ := step_next h
  · obtain ⟨w', -, rfl⟩ := State.runs_of_fetchDecode hrun hd
    exact absurd ((exec_runState hv).trans hrun) ht
  · exact ⟨r, a, hr, rfl⟩

/-- Settles O12: the countdown and the beep are in the finish of the step, which starts with the beep cleared; a halt keeps
the timers and clears the beep. -/
theorem timersCountDownAndBeep : Obligations.TimersCountDownAndBeep := by
  constructor
  · intro s w i u hruns hu
    have hbeep : u.finish.beep = (u.beep || decide (u.st = 1)) := rfl
    have hclear : u.beep = false := exec_beep hu
    refine ⟨u.finish, hruns.step_next_iff.2 ⟨u, hu, rfl⟩, countdown_toNat _, countdown_toNat _, ?_⟩
    rw [hbeep, hclear, Bool.false_or, decide_eq_true_iff]
  · intro s t ht hhalt
    obtain ⟨r, a, -, rfl⟩ := step_next_not_running ht hhalt
    exact ⟨rfl, rfl, rfl⟩

/-! ## The ports of a halting STEP -/

/-- A fault that stands for a halt stands for a fatal one (60_exceptions.md R211). -/
theorem Fault.fatal_of_halt? {f : Fault} {r : HaltReason} {info : Word} (h : f.halt? = some (r, info)) :
    r.fatal = true := by
  cases f with
  | stackUnderflow | stackOverflow _ | memoryBounds _ | keyIndexRange _ => cases h; rfl
  | stepNotLoaded | stepAfterHalt => cases h

theorem State.stepCommand_of_next {s t : State} (h : step s = .next t) : s.stepCommand = .next t := by
  rw [State.stepCommand, h]

/-- A fatal halt is recorded at the ports in the state before the step (60_exceptions.md R215). -/
theorem State.stepCommand_of_halt {s : State} {f : Fault} {r : HaltReason} {info : Word} (h : step s = .fault f)
    (hf : f.halt? = some (r, info)) : s.stepCommand = .next (s.haltEntry r info) := by
  simp only [State.stepCommand, h, hf]

/-- Settles O19: the state of a halting STEP is the halt entry, from a fault at the ports and from a clean halt in the step
itself; what the ports show is read off it. -/
theorem haltsArePrecise : Obligations.HaltsArePrecise := by
  constructor
  · intro s f r info hstep hf
    exact ⟨Fault.fatal_of_halt? hf, _, State.stepCommand_of_halt hstep hf, rfl, rfl, rfl, rfl⟩
  · intro s t r info hstep hhalt
    obtain ⟨r', a, hclean, rfl⟩ := step_next_not_running hstep (by rw [hhalt]; exact nofun)
    cases hhalt
    exact ⟨hclean, State.stepCommand_of_next hstep, rfl, rfl, rfl, rfl⟩

/-! ## Out of Halted -/

/-- At the ports too a STEP after a halt has no move (60_exceptions.md R217). -/
theorem State.stepCommand_halted {s : State} {r : HaltReason} {info : Word} (h : s.runState = .halted r info) :
    s.stepCommand = .fault .stepAfterHalt := by
  obtain ⟨-, hhalt, -⟩ := stepMovesOnlyWhileRunning s
  rw [State.stepCommand, hhalt r info h]
  rfl

theorem State.cleared_resetElements (s : State) : s.cleared.ResetElements where
  v := s.reg_cleared
  i := rfl
  pc := rfl
  stack := rfl
  dt := rfl
  st := rfl
  hires := rfl
  fb := FrameBuf.cell_blank

/-- A LOAD resets every element, whatever the image: the bytes of a usable one are placed in the cleared state
(70_reset_and_hazards.md R241). -/
theorem State.load_resetElements (image : Option (List Byte)) (s : State) : (s.load image).ResetElements := by
  cases image with
  | none => exact s.cleared_resetElements
  | some bytes =>
    by_cases hok : 1 ≤ bytes.length ∧ bytes.length ≤ 3584
    · obtain ⟨h1, h2⟩ := hok
      rw [s.load_of_ok h1 h2, State.pokes_eq]
      exact { s.cleared_resetElements with }
    · rw [s.load_of_bad (by omega)]
      exact s.cleared_resetElements

/-- Memory after a LOAD of a usable image is the cleared memory with the image from 0x200 up. -/
theorem State.peek_load (s : State) {bytes : List Byte} (h1 : 1 ≤ bytes.length) (h2 : bytes.length ≤ 3584) (a : Nat) :
    (s.load (some bytes)).peek a = (s.cleared.pokes 0x200 bytes).peek a := by
  rw [s.load_of_ok h1 h2]
  rfl

/-- The image stands at 0x200 after its LOAD (70_reset_and_hazards.md R241, R244). -/
theorem State.peek_load_image (s : State) {bytes : List Byte} (h2 : bytes.length ≤ 3584) {k : Nat} (h : k < bytes.length) :
    (s.load (some bytes)).peek (0x200 + k) = bytes[k] := by
  rw [s.peek_load (Nat.one_le_of_lt h) h2, State.peek_pokes_inside _ _ _ _ h]

/-- Outside the image memory is FONT and zeros after a LOAD (70_reset_and_hazards.md R241). -/
theorem State.peek_load_outside (s : State) {bytes : List Byte} (h1 : 1 ≤ bytes.length) (h2 : bytes.length ≤ 3584) {a : Nat}
    (h : a < 0x200 ∨ 0x200 + bytes.length ≤ a) : (s.load (some bytes)).peek a = unlisted s.cfg.font a := by
  rw [s.peek_load h1 h2, State.peek_pokes_outside _ _ _ _ h, s.peek_cleared]

/-- Settles O20: a halted STEP faults and RENDER changes nothing, so that LOAD alone is left; what it sets up does not depend
on the state before it. -/
theorem haltedIsAbsorbing : Obligations.HaltedIsAbsorbing := by
  intro s r info hs
  have hstuck : ∀ t, s.command .step ≠ .next t := fun t ht => by cases (State.stepCommand_halted hs).symm.trans ht
  refine ⟨fun c t hc hne => ?_, hstuck, fun bytes h1 h2 => ?_⟩
  · cases c with
    | load image => exact ⟨image, rfl⟩
    | step => exact absurd hc (hstuck t)
    | render => cases hc; exact absurd rfl hne
  · have hload := s.load_of_ok h1 h2
    refine ⟨s.load (some bytes), rfl, by rw [hload], s.load_resetElements _, by rw [hload], by rw [hload],
      fun k hk => s.peek_load_image h2 hk, fun k hk => ?_, fun a ha hout => ?_⟩
    · rw [s.peek_load_outside h1 h2 (.inl (by omega)), unlisted_of_lt _ hk]
    · rw [s.peek_load_outside h1 h2 hout, unlisted_of_ge _ ha]

/-! ## The trace record -/

/-- A step that runs an instruction is traced as the word executed (60_exceptions.md R225; 10_state.md R53). -/
theorem State.Runs.trace_eq {s : State} {w : Word} {i : Instr} (h : s.Runs w i) :
    s.trace = some (traceRecord (s.executedWord w)) := by
  have hd : decode (s.executedWord w) = .instr i := s.executedWord_eq w ▸ h.decodes
  simp only [State.trace, h.fetches.running, h.fetches.fetchDecode_eq, hd]

/-- Settles O53: the record is that of the word executed, whose fields are its bits by 30_encoding.md R81. -/
theorem traceHoldsTheExecutedWord : Obligations.TraceHoldsTheExecutedWord :=
  fun s w _ h => ⟨_, h.trace_eq, s.executedWord_eq w, rfl, rfl, rfl, rfl, fieldNN_toNat _, fieldNNN_toNat _⟩

end Sys2Proof.Machine
end

section
/-! PROOFS. Reset and hazards (70_reset_and_hazards.md): what a LOAD leaves with a usable image and without one, and the timers
in the step that writes them and in a step that waits for a key. -/

namespace Sys2Proof.Machine

/-! ## LOAD -/

/-- Settles O21: the reset elements are those of every LOAD, the metadata is the image's, and memory is the image inside its
range, FONT and zeros outside. -/
theorem loadEstablishesEveryElement : Obligations.LoadEstablishesEveryElement := by
  intro s bytes h1 h2
  have hload := s.load_of_ok h1 h2
  have hcfg : (s.load (some bytes)).cfg = s.cfg := by
    rw [hload, State.pokes_eq]
    rfl
  refine ⟨_, rfl, s.load_resetElements _, by rw [hload], by rw [hload], by rw [hload], by rw [State.loadOk, hload], hcfg,
    fun k hk => s.peek_load_image h2 hk, fun k hk => ?_, fun a ha hout => ?_⟩
  · rw [s.peek_load_outside h1 h2 (.inl (by omega)), unlisted_of_lt _ hk]
  · rw [s.peek_load_outside h1 h2 hout, unlisted_of_ge _ ha]

/-- A LOAD of an unreadable, empty or too long image stops at the cleared state (70_reset_and_hazards.md R241, R242). -/
theorem State.load_of_unusable (s : State) {image : Option (List Byte)}
    (h : ∀ bytes, image = some bytes → bytes.length = 0 ∨ 3584 < bytes.length) : s.load image = s.cleared := by
  cases image with
  | none => exact s.load_none
  | some bytes => exact s.load_of_bad (h bytes rfl)

/-- Settles O22: such a LOAD leaves the cleared state, which is not loaded and whose memory is FONT and zeros. -/
theorem failedLoadIsNotRunnable : Obligations.FailedLoadIsNotRunnable := by
  intro s image hbad
  obtain ⟨hstuck, -⟩ := stepMovesOnlyWhileRunning s.cleared
  refine ⟨s.cleared, s.load_of_unusable hbad, s.cleared_resetElements, rfl, rfl, rfl, rfl, fun u hu => ?_,
    fun _ hk => unlisted_of_lt _ hk, fun _ ha => unlisted_of_ge _ ha⟩
  cases (hstuck rfl).symm.trans hu

/-! ## Timers in the step -/

/-- Settles O57: FX15 and FX18 leave VX in their timer, and the countdown and the beep of the same step read it there; an FX07
then reads the timer as counted down. -/
theorem writtenTimerCountsDownInItsStep : Obligations.WrittenTimerCountsDownInItsStep := by
  obtain ⟨hcount, -⟩ := timersCountDownAndBeep
  refine fun x s w => ⟨fun hruns => ?dt, fun hruns => ?st⟩
  case dt =>
    obtain ⟨t, hstep, hdt, -, -⟩ := hcount s w _ _ hruns rfl
    refine ⟨t, hstep, hdt, fun r z hr => ?_⟩
    obtain ⟨⟨q, hq, -, -, hread⟩, -, -⟩ := timerTransfersWriteTheirTarget z r
    exact ⟨q, hq, by rw [hread, hr]; exact hdt⟩
  case st =>
    obtain ⟨t, hstep, -, hst, hbeep⟩ := hcount s w _ _ hruns rfl
    exact ⟨t, hstep, hst, hbeep⟩

/-- Settles O58: FX0A takes back the two bytes that the finish of the step adds to PC, and writes nothing else, so that the
countdown finds both timers as they were. -/
theorem waitingStepCountsTimersDown : Obligations.WaitingStepCountsTimersDown := by
  intro x s w hruns hup
  obtain ⟨u, hexec, hpc, hu⟩ := (keyWaitRearmsOrStoresAKey x (s.start w)).1 hup
  obtain ⟨t, hstep, htpc, hdt, hst, -, -, -, ht⟩ := (stepRunsTheDecodedInstruction s w _ hruns).1 u hexec
  rw [hu] at hdt hst ht
  refine ⟨t, hstep, htpc.trans hpc, hdt, hst, fun r => ?_, ?_⟩
  · rw [ht]
    rfl
  · rw [ht]
    exact hruns.fetches.running

end Sys2Proof.Machine
end
